-- ==== Sys2Proof/Word.lean ====
section
/-! DEFINITION. The word types of the block (spec/00_scope.md R9, R12, spec/10_state.md R40). -/

namespace Sys2Proof

/-- A byte: the unit of the framebuffer and of every register access (20 R70, R73). -/
abbrev Byte := BitVec 8

/-- A 16-bit register or a `wrap16` coordinate (00 R13). -/
abbrev Half := BitVec 16

/-- A 32-bit register, payload or pixel datum (00 R11, R12). -/
abbrev Word := BitVec 32

/-- A multifunction slot's value or a 12-bit count (10 R42). -/
abbrev Slot12 := BitVec 12

/-- A packed command entry (30 R100). -/
abbrev EntryWord := BitVec 64

end Sys2Proof
end

