-- ==== Sys2Proof/Config.lean ====
section
/-! DEFINITION. What an implementation or its construction fixes (spec/00_scope.md R9), and the free
values: constants without a body, of which nothing can be proved (log 10, log 11). -/

namespace Sys2Proof

/-- The parameters of one device instance (00 R9). The Host gives them at construction; `qcap` never
changes, the other three change only by CONFIG (70 R414). -/
structure Params where
  /-- `QCAP`, the queue capacity in entries. -/
  qcap : Nat
  /-- `PB`, bytes per pixel unit. -/
  pb : Nat
  /-- `PITCH`, the scanline pitch in pixels. -/
  pitch : Nat
  /-- `VRAM_BYTES`, the installed framebuffer size in bytes. -/
  vramBytes : Nat
deriving DecidableEq, Repr

/-- `LWM`, the low-water mark in entries (00 R9). -/
def Config.lwm : Nat := 8

/-- `DIRTY_LOG`, log2 of the dirty-page size in bytes (00 R9). -/
def Config.dirtyLog : Nat := 12

/-- FREE VALUE. What REPORT-UTILIZATION returns (45 R356), taken at the model's counter (log 11). -/
opaque Config.utilization : Nat → Nat

/-- FREE VALUE. The framebuffer contents after CONFIG changes `VRAM_BYTES` (70 R414), as a list of
writes of bytes to addresses, taken at the model's counter (log 10). -/
opaque Config.freshPicture : Nat → List (Nat × Byte)

/-- FREE VALUE. The dirty pages after CONFIG changes `VRAM_BYTES` (70 R414; log 10). -/
opaque Config.freshDirty : Nat → List Nat

end Sys2Proof
end

