-- ==== Sys2Proof/Syntax.lean ====
section
/-! DEFINITION. The abstract syntax: one constructor of `Instr` per row of spec/opcode_table.json. -/

namespace Sys2Proof

/-- The two offset spaces of the register space (20 R71). -/
inductive BusSpace where
  /-- The mapped I/O window: 24-bit offsets. -/
  | mapped
  /-- Port-style access: 16-bit port numbers. -/
  | port
deriving DecidableEq, Repr

/-- The width of an access or entry: 1, 2 or 4 bytes (20 R76). -/
inductive Width where
  | w1
  | w2
  | w4
deriving DecidableEq, Repr

/-- The address of one byte of the register space. A mapped offset is a natural number (30 R113): the
last bytes of a wide access may lie past 24 bits. -/
inductive ByteAddr where
  | mapped (o : Nat)
  | port (p : BitVec 16)
deriving DecidableEq, Repr

/-- A Producer access without its value: space, address, width (41 R170). A port number stands in the
low 16 bits of `addr`. -/
structure Access where
  space : BusSpace
  addr : BitVec 24
  width : Width
deriving DecidableEq, Repr

/-- The registers of the register map that own a 4-byte slot, but PIX_TRANS (30 R110). `cmd` is the
CMD slot, read as GP_STAT; `multifunc` is MULTIFUNC_CNTL. -/
inductive RegName where
  | curY | curX | destyAxstp | destxDiastp | errTerm | majAxisPcnt | cmd | shortStroke
  | bkgdColor | frgdColor | wrtMask | rdMask | colorCmp | bkgdMix | frgdMix | multifunc
deriving DecidableEq, Repr

/-- What one byte address decodes to (30 R112, R113; 42 R200). -/
inductive Target where
  /-- `REG(name, lane)`. -/
  | reg (name : RegName) (lane : BitVec 2)
  /-- `PIXEL_BYTE(lane)`. -/
  | pixel (lane : BitVec 2)
  /-- `NONE`. -/
  | none
deriving DecidableEq, Repr

/-- The instructions: the queue entries, the bus accesses, the byte writes and reads, the command
words, the stages of the pixel pipeline, the multifunction words and the agents' steps (00 R4). A
field named `hi`, `mid` or `lo` holds the bits of the word that the row's mask leaves open. -/
inductive Instr where
  /-- `ENTRY.INVALID`: queue entry, 30 R101, 41 R182. -/
  | entryInvalid (off : BitVec 24) (payload : Word)
  /-- `ENTRY.WRITE_BYTE`: queue entry, 30 R101, 41 R182. -/
  | entryWriteByte (off : BitVec 24) (payload : Word)
  /-- `ENTRY.WRITE_WORD`: queue entry, 30 R101, 41 R182. -/
  | entryWriteWord (off : BitVec 24) (payload : Word)
  /-- `ENTRY.WRITE_DWORD`: queue entry, 30 R101, 41 R182. -/
  | entryWriteDword (off : BitVec 24) (payload : Word)
  /-- `ENTRY.OUT_BYTE`: queue entry, 30 R101, 41 R182. -/
  | entryOutByte (off : BitVec 24) (payload : Word)
  /-- `ENTRY.OUT_WORD`: queue entry, 30 R101, 41 R182. -/
  | entryOutWord (off : BitVec 24) (payload : Word)
  /-- `ENTRY.OUT_DWORD`: queue entry, 30 R101, 41 R182. -/
  | entryOutDword (off : BitVec 24) (payload : Word)
  /-- `WRITE8`: mapped write, 41 R172. -/
  | write8 (o : BitVec 24) (v : Word)
  /-- `WRITE16`: mapped write, 41 R172. -/
  | write16 (o : BitVec 24) (v : Word)
  /-- `WRITE32`: mapped write, 41 R172. -/
  | write32 (o : BitVec 24) (v : Word)
  /-- `OUT8`: port-style write, 41 R172. -/
  | out8 (p : BitVec 16) (v : Word)
  /-- `OUT16`: port-style write, 41 R172. -/
  | out16 (p : BitVec 16) (v : Word)
  /-- `OUT32`: port-style write, 41 R172. -/
  | out32 (p : BitVec 16) (v : Word)
  /-- `READ8`: mapped read, 41 R176. -/
  | read8 (o : BitVec 24)
  /-- `READ16`: mapped read, 41 R176. -/
  | read16 (o : BitVec 24)
  /-- `READ32`: mapped read, 41 R176. -/
  | read32 (o : BitVec 24)
  /-- `IN8`: port-style read, 41 R176. -/
  | in8 (p : BitVec 16)
  /-- `IN16`: port-style read, 41 R176. -/
  | in16 (p : BitVec 16)
  /-- `IN32`: port-style read, 41 R176. -/
  | in32 (p : BitVec 16)
  /-- `W.CUR_Y`: register byte write, file 42. -/
  | wCurY (sp : BusSpace) (lane : BitVec 2) (b : Byte)
  /-- `W.CUR_X`: register byte write, file 42. -/
  | wCurX (sp : BusSpace) (lane : BitVec 2) (b : Byte)
  /-- `W.DESTY_AXSTP`: register byte write, file 42. -/
  | wDestyAxstp (sp : BusSpace) (lane : BitVec 2) (b : Byte)
  /-- `W.DESTX_DIASTP`: register byte write, file 42. -/
  | wDestxDiastp (sp : BusSpace) (lane : BitVec 2) (b : Byte)
  /-- `W.ERR_TERM`: register byte write, file 42. -/
  | wErrTerm (sp : BusSpace) (lane : BitVec 2) (b : Byte)
  /-- `W.MAJ_AXIS_PCNT`: register byte write, file 42. -/
  | wMajAxisPcnt (sp : BusSpace) (lane : BitVec 2) (b : Byte)
  /-- `W.CMD`: register byte write, file 42. -/
  | wCmd (sp : BusSpace) (lane : BitVec 2) (b : Byte)
  /-- `W.SHORT_STROKE`: register byte write, file 42. -/
  | wShortStroke (sp : BusSpace) (lane : BitVec 2) (b : Byte)
  /-- `W.BKGD_COLOR`: register byte write, file 42. -/
  | wBkgdColor (sp : BusSpace) (lane : BitVec 2) (b : Byte)
  /-- `W.FRGD_COLOR`: register byte write, file 42. -/
  | wFrgdColor (sp : BusSpace) (lane : BitVec 2) (b : Byte)
  /-- `W.WRT_MASK`: register byte write, file 42. -/
  | wWrtMask (sp : BusSpace) (lane : BitVec 2) (b : Byte)
  /-- `W.RD_MASK`: register byte write, file 42. -/
  | wRdMask (sp : BusSpace) (lane : BitVec 2) (b : Byte)
  /-- `W.COLOR_CMP`: register byte write, file 42. -/
  | wColorCmp (sp : BusSpace) (lane : BitVec 2) (b : Byte)
  /-- `W.BKGD_MIX`: register byte write, file 42. -/
  | wBkgdMix (sp : BusSpace) (lane : BitVec 2) (b : Byte)
  /-- `W.FRGD_MIX`: register byte write, file 42. -/
  | wFrgdMix (sp : BusSpace) (lane : BitVec 2) (b : Byte)
  /-- `W.MULTIFUNC_CNTL`: register byte write, file 42. -/
  | wMultifuncCntl (sp : BusSpace) (lane : BitVec 2) (b : Byte)
  /-- `W.PIX_TRANS`: register byte write, file 42. -/
  | wPixTrans (sp : BusSpace) (lane : BitVec 2) (b : Byte)
  /-- `W.PIX_TRANS.WINDOW`: byte write in the mapped pixel-transfer window, 30 R113, 42 R230. -/
  | wPixTransWindow (o : BitVec 15) (b : Byte)
  /-- `W.NONE`: byte write where no register is, 42 R200. -/
  | wNone (a : ByteAddr) (b : Byte)
  /-- `R.CUR_Y`: register byte read, 42 R240, file 45. -/
  | rCurY (sp : BusSpace) (lane : BitVec 2)
  /-- `R.CUR_X`: register byte read, 42 R240, file 45. -/
  | rCurX (sp : BusSpace) (lane : BitVec 2)
  /-- `R.DESTY_AXSTP`: register byte read, 42 R240, file 45. -/
  | rDestyAxstp (sp : BusSpace) (lane : BitVec 2)
  /-- `R.DESTX_DIASTP`: register byte read, 42 R240, file 45. -/
  | rDestxDiastp (sp : BusSpace) (lane : BitVec 2)
  /-- `R.ERR_TERM`: register byte read, 42 R240, file 45. -/
  | rErrTerm (sp : BusSpace) (lane : BitVec 2)
  /-- `R.MAJ_AXIS_PCNT`: register byte read, 42 R240, file 45. -/
  | rMajAxisPcnt (sp : BusSpace) (lane : BitVec 2)
  /-- `R.GP_STAT`: register byte read, 42 R240, file 45. -/
  | rGpStat (sp : BusSpace) (lane : BitVec 2)
  /-- `R.SHORT_STROKE`: register byte read, 42 R240, file 45. -/
  | rShortStroke (sp : BusSpace) (lane : BitVec 2)
  /-- `R.BKGD_COLOR`: register byte read, 42 R240, file 45. -/
  | rBkgdColor (sp : BusSpace) (lane : BitVec 2)
  /-- `R.FRGD_COLOR`: register byte read, 42 R240, file 45. -/
  | rFrgdColor (sp : BusSpace) (lane : BitVec 2)
  /-- `R.WRT_MASK`: register byte read, 42 R240, file 45. -/
  | rWrtMask (sp : BusSpace) (lane : BitVec 2)
  /-- `R.RD_MASK`: register byte read, 42 R240, file 45. -/
  | rRdMask (sp : BusSpace) (lane : BitVec 2)
  /-- `R.COLOR_CMP`: register byte read, 42 R240, file 45. -/
  | rColorCmp (sp : BusSpace) (lane : BitVec 2)
  /-- `R.BKGD_MIX`: register byte read, 42 R240, file 45. -/
  | rBkgdMix (sp : BusSpace) (lane : BitVec 2)
  /-- `R.FRGD_MIX`: register byte read, 42 R240, file 45. -/
  | rFrgdMix (sp : BusSpace) (lane : BitVec 2)
  /-- `R.MULTIFUNC`: register byte read, 42 R240, file 45. -/
  | rMultifunc (sp : BusSpace) (lane : BitVec 2)
  /-- `R.PIX_TRANS`: register byte read, 42 R240, file 45. -/
  | rPixTrans (sp : BusSpace) (lane : BitVec 2)
  /-- `R.PIX_TRANS.WINDOW`: byte read in the mapped pixel-transfer window, 30 R113, 42 R240. -/
  | rPixTransWindow (o : BitVec 15)
  /-- `R.NONE`: byte read where no register is, 42 R240. -/
  | rNone (a : ByteAddr)
  /-- `CMD.NOP`: command word of this CLASS: bits 12:0, 30 R120. -/
  | cmdNop (lo : BitVec 13)
  /-- `CMD.LINE`: command word of this CLASS: bits 12:0, 30 R120. -/
  | cmdLine (lo : BitVec 13)
  /-- `CMD.RECT`: command word of this CLASS: bits 12:0, 30 R120. -/
  | cmdRect (lo : BitVec 13)
  /-- `CMD.RSV3`: command word of this CLASS: bits 12:0, 30 R120. -/
  | cmdRsv3 (lo : BitVec 13)
  /-- `CMD.RSV4`: command word of this CLASS: bits 12:0, 30 R120. -/
  | cmdRsv4 (lo : BitVec 13)
  /-- `CMD.RSV5`: command word of this CLASS: bits 12:0, 30 R120. -/
  | cmdRsv5 (lo : BitVec 13)
  /-- `CMD.BLIT`: command word of this CLASS: bits 12:0, 30 R120. -/
  | cmdBlit (lo : BitVec 13)
  /-- `CMD.PAT`: command word of this CLASS: bits 12:0, 30 R120. -/
  | cmdPat (lo : BitVec 13)
  /-- `CMD.LINE.BRESENHAM`: a Line command word with RADIAL 0: bits 12:4 and 2:0, 44 R302. -/
  | cmdLineBresenham (hi : BitVec 9) (lo : BitVec 3)
  /-- `CMD.LINE.RADIAL`: a Line command word with RADIAL 1: bits 12:4 and 2:0, 44 R303. -/
  | cmdLineRadial (hi : BitVec 9) (lo : BitVec 3)
  /-- `MIX.NOT_D`: Raster ALU function, mix word bits 15:4, 43 R250. -/
  | mixNotD (hi : BitVec 12)
  /-- `MIX.ZERO`: Raster ALU function, mix word bits 15:4, 43 R250. -/
  | mixZero (hi : BitVec 12)
  /-- `MIX.ONE`: Raster ALU function, mix word bits 15:4, 43 R250. -/
  | mixOne (hi : BitVec 12)
  /-- `MIX.D`: Raster ALU function, mix word bits 15:4, 43 R250. -/
  | mixD (hi : BitVec 12)
  /-- `MIX.NOT_S`: Raster ALU function, mix word bits 15:4, 43 R250. -/
  | mixNotS (hi : BitVec 12)
  /-- `MIX.S_XOR_D`: Raster ALU function, mix word bits 15:4, 43 R250. -/
  | mixSXorD (hi : BitVec 12)
  /-- `MIX.S_XNOR_D`: Raster ALU function, mix word bits 15:4, 43 R250. -/
  | mixSXnorD (hi : BitVec 12)
  /-- `MIX.S`: Raster ALU function, mix word bits 15:4, 43 R250. -/
  | mixS (hi : BitVec 12)
  /-- `MIX.S_NAND_D`: Raster ALU function, mix word bits 15:4, 43 R250. -/
  | mixSNandD (hi : BitVec 12)
  /-- `MIX.NOT_S_OR_D`: Raster ALU function, mix word bits 15:4, 43 R250. -/
  | mixNotSOrD (hi : BitVec 12)
  /-- `MIX.S_OR_NOT_D`: Raster ALU function, mix word bits 15:4, 43 R250. -/
  | mixSOrNotD (hi : BitVec 12)
  /-- `MIX.S_OR_D`: Raster ALU function, mix word bits 15:4, 43 R250. -/
  | mixSOrD (hi : BitVec 12)
  /-- `MIX.S_AND_D`: Raster ALU function, mix word bits 15:4, 43 R250. -/
  | mixSAndD (hi : BitVec 12)
  /-- `MIX.S_AND_NOT_D`: Raster ALU function, mix word bits 15:4, 43 R250. -/
  | mixSAndNotD (hi : BitVec 12)
  /-- `MIX.NOT_S_AND_D`: Raster ALU function, mix word bits 15:4, 43 R250. -/
  | mixNotSAndD (hi : BitVec 12)
  /-- `MIX.S_NOR_D`: Raster ALU function, mix word bits 15:4, 43 R250. -/
  | mixSNorD (hi : BitVec 12)
  /-- `SRC.BKGD_COLOR`: source datum, mix word bits 15:7 and 4:0, 43 R256. -/
  | srcBkgdColor (hi : BitVec 9) (lo : BitVec 5)
  /-- `SRC.FRGD_COLOR`: source datum, mix word bits 15:7 and 4:0, 43 R256. -/
  | srcFrgdColor (hi : BitVec 9) (lo : BitVec 5)
  /-- `SRC.CPU_DATA`: source datum, mix word bits 15:7 and 4:0, 43 R256. -/
  | srcCpuData (hi : BitVec 9) (lo : BitVec 5)
  /-- `SRC.DISPLAY_MEMORY`: source datum, mix word bits 15:7 and 4:0, 43 R256. -/
  | srcDisplayMemory (hi : BitVec 9) (lo : BitVec 5)
  /-- `MIXSEL.ALWAYS_FG`: selector bit, PIX_CNTL bits 11:8 and 5:0, 43 R254. -/
  | mixselAlwaysFg (hi : BitVec 4) (lo : BitVec 6)
  /-- `MIXSEL.RESERVED_AS_0`: selector bit, PIX_CNTL bits 11:8 and 5:0, 43 R254. -/
  | mixselReservedAs0 (hi : BitVec 4) (lo : BitVec 6)
  /-- `MIXSEL.CPU_DATA`: selector bit, PIX_CNTL bits 11:8 and 5:0, 43 R254. -/
  | mixselCpuData (hi : BitVec 4) (lo : BitVec 6)
  /-- `MIXSEL.DISPLAY_MEMORY`: selector bit, PIX_CNTL bits 11:8 and 5:0, 43 R254. -/
  | mixselDisplayMemory (hi : BitVec 4) (lo : BitVec 6)
  /-- `CMP.ALWAYS`: compare gate, MULT_MISC bits 11:9 and 6:0, 43 R258. -/
  | cmpAlways (hi : BitVec 3) (lo : BitVec 7)
  /-- `CMP.NEVER`: compare gate, MULT_MISC bits 11:9 and 6:0, 43 R258. -/
  | cmpNever (hi : BitVec 3) (lo : BitVec 7)
  /-- `CMP.NE`: compare gate, MULT_MISC bits 11:9 and 6:0, 43 R258. -/
  | cmpNe (hi : BitVec 3) (lo : BitVec 7)
  /-- `CMP.EQ`: compare gate, MULT_MISC bits 11:9 and 6:0, 43 R258. -/
  | cmpEq (hi : BitVec 3) (lo : BitVec 7)
  /-- `MF.MIN_AXIS_PCNT`: multifunction word of this INDEX, 42 R222. -/
  | mfMinAxisPcnt (data : Slot12)
  /-- `MF.SCISSORS_T`: multifunction word of this INDEX, 42 R222. -/
  | mfScissorsT (data : Slot12)
  /-- `MF.SCISSORS_L`: multifunction word of this INDEX, 42 R222. -/
  | mfScissorsL (data : Slot12)
  /-- `MF.SCISSORS_B`: multifunction word of this INDEX, 42 R222. -/
  | mfScissorsB (data : Slot12)
  /-- `MF.SCISSORS_R`: multifunction word of this INDEX, 42 R222. -/
  | mfScissorsR (data : Slot12)
  /-- `MF.SLOT5`: multifunction word of this INDEX, 42 R222. -/
  | mfSlot5 (data : Slot12)
  /-- `MF.SLOT6`: multifunction word of this INDEX, 42 R222. -/
  | mfSlot6 (data : Slot12)
  /-- `MF.SLOT7`: multifunction word of this INDEX, 42 R222. -/
  | mfSlot7 (data : Slot12)
  /-- `MF.SLOT8`: multifunction word of this INDEX, 42 R222. -/
  | mfSlot8 (data : Slot12)
  /-- `MF.SLOT9`: multifunction word of this INDEX, 42 R222. -/
  | mfSlot9 (data : Slot12)
  /-- `MF.PIX_CNTL`: multifunction word of this INDEX, 42 R222. -/
  | mfPixCntl (data : Slot12)
  /-- `MF.SLOTB`: multifunction word of this INDEX, 42 R222. -/
  | mfSlotb (data : Slot12)
  /-- `MF.SLOTC`: multifunction word of this INDEX, 42 R222. -/
  | mfSlotc (data : Slot12)
  /-- `MF.SLOTD`: multifunction word of this INDEX, 42 R222. -/
  | mfSlotd (data : Slot12)
  /-- `MF.MULT_MISC`: multifunction word of this INDEX, 42 R222. -/
  | mfMultMisc (data : Slot12)
  /-- `MF.READ_SEL`: multifunction word of this INDEX, 42 R222. -/
  | mfReadSel (data : Slot12)
  /-- `ENQUEUE`: Producer step, 40 R151. -/
  | enqueue
  /-- `ENQUEUE.FULL`: Producer step, 40 R152. -/
  | enqueueFull
  /-- `DEQUEUE-EXECUTE`: Consumer step, 40 R153. -/
  | dequeueExecute
  /-- `WAKE`: Consumer step, 41 R180. -/
  | wake
  /-- `EMPTY`: Consumer step, 41 R183. -/
  | empty
  /-- `STOP`: Consumer step, 41 R184. -/
  | stop
  /-- `STATUS-READ`: Producer step, 45 R350. -/
  | statusRead (a : Access)
  /-- `DRAINED-READ`: Producer step, 45 R352. -/
  | drainedRead (a : Access)
  /-- `WAIT-IDLE`: Host call, 45 R354. -/
  | waitIdle
  /-- `REPORT-UTILIZATION`: Host call, 45 R356. -/
  | reportUtilization
  /-- `CONFIG`: Host call, 70 R414. -/
  | config (pb pitch vramBytes : Nat)
  /-- `CLOSE`: Host call, 10 R38. -/
  | close
deriving DecidableEq, Repr

/-- Which table an operation word is read by: the spec gives words of different registers the same bit
patterns, so a word alone does not name its row (log 15). -/
inductive WordSpace where
  /-- A packed queue entry, 64 bits (30 R100). -/
  | entry
  /-- A Producer access (41 R170), in the model's own packing. -/
  | access
  /-- A byte write: address and byte (30 R112, R113). -/
  | byteWrite
  /-- A byte read: address (30 R112, R113). -/
  | byteRead
  /-- A command word, read by CLASS (30 R121). -/
  | cmd
  /-- A Line command word, read by RADIAL (30 R123). -/
  | lineMode
  /-- A mix register word, read by MIX_CODE (30 R127). -/
  | mix
  /-- A mix register word, read by SRC_SEL (30 R126). -/
  | src
  /-- A PIX_CNTL word, read by MIX_SEL (30 R131). -/
  | mixSel
  /-- A MULT_MISC word, read by CMP_MODE (30 R132). -/
  | cmp
  /-- A multifunction word, read by INDEX (30 R130). -/
  | multifunc
  /-- A step of an agent, in the model's own packing. -/
  | agent
deriving DecidableEq, Repr

end Sys2Proof
end

