-- ==== Sys2Proof/Decode.lean ====
section
/-! DEFINITION. The address map (spec/30_encoding.md R110 to R115), the decoder of operation words and
the encoder beside it. A word is read in a `WordSpace` (log 15); bits of a word are numbered as
spec/opcode_table.json numbers them. -/

namespace Sys2Proof

/-! ## The address map -/

/-- The base port of a register's 4-byte slot (30 R110). -/
def RegName.base : RegName → BitVec 16
  | .curY => 0x82E8#16
  | .curX => 0x86E8#16
  | .destyAxstp => 0x8AE8#16
  | .destxDiastp => 0x8EE8#16
  | .errTerm => 0x92E8#16
  | .majAxisPcnt => 0x96E8#16
  | .cmd => 0x9AE8#16
  | .shortStroke => 0x9EE8#16
  | .bkgdColor => 0xA2E8#16
  | .frgdColor => 0xA6E8#16
  | .wrtMask => 0xAAE8#16
  | .rdMask => 0xAEE8#16
  | .colorCmp => 0xB2E8#16
  | .bkgdMix => 0xB6E8#16
  | .frgdMix => 0xBAE8#16
  | .multifunc => 0xBEE8#16

/-- The base port of PIX_TRANS (30 R110). -/
def pixTransBase : BitVec 16 := 0xE2E8#16

/-- Every register with a slot in the map (30 R110). -/
def RegName.all : List RegName :=
  [.curY, .curX, .destyAxstp, .destxDiastp, .errTerm, .majAxisPcnt, .cmd, .shortStroke,
   .bkgdColor, .frgdColor, .wrtMask, .rdMask, .colorCmp, .bkgdMix, .frgdMix, .multifunc]

/-- The port of lane `lane` of a register: byte `base + lane` (30 R110). -/
def RegName.port (r : RegName) (lane : BitVec 2) : BitVec 16 := r.base + lane.setWidth 16

/-- Port-space byte decode (30 R112). -/
def decodePort (p : BitVec 16) : Target :=
  if p &&& 0xFFFC#16 = pixTransBase then .pixel (p.setWidth 2)
  else
    match RegName.all.find? (fun r => r.base == p &&& 0xFFFC#16) with
    | some r => .reg r (p.setWidth 2)
    | none => .none

/-- Mapped-space byte decode (30 R113). -/
def decodeMapped (o : Nat) : Target :=
  if 0x10000 ≤ o then .none
  else if o < 0x8000 then .pixel (BitVec.ofNat 2 o)
  else decodePort (BitVec.ofNat 16 o)

/-- What a byte address decodes to (30 R112, R113). -/
def decodeAddr : ByteAddr → Target
  | .mapped o => decodeMapped o
  | .port p => decodePort p

/-- The byte indices of an access of this width, ascending (30 R114). -/
def Width.lanes : Width → List Nat
  | .w1 => [0]
  | .w2 => [0, 1]
  | .w4 => [0, 1, 2, 3]

/-- The address of byte `i` of an access or entry that starts at `addr`: `o + i` in the mapped space,
`(p + i) mod 2^16` in the port space (30 R114). The port is the low 16 bits of `addr` (log 18). -/
def byteAddrAt (sp : BusSpace) (addr : BitVec 24) (i : Nat) : ByteAddr :=
  match sp with
  | .mapped => .mapped (addr.toNat + i)
  | .port => .port (addr.setWidth 16 + BitVec.ofNat 16 i)

/-- The byte addresses of an access, ascending (30 R114). -/
def Access.bytes (a : Access) : List ByteAddr := a.width.lanes.map (byteAddrAt a.space a.addr)

/-- A byte that does not make a read a drained one: a CMD-slot byte, a PIXEL_BYTE or NONE (30 R115). -/
def Target.isSynchronous : Target → Bool
  | .reg .cmd _ => true
  | .reg _ _ => false
  | .pixel _ => true
  | .none => true

/-- A synchronous read: none of its bytes is a byte of a register other than CMD (30 R115). -/
def Access.isSynchronous (a : Access) : Bool :=
  a.bytes.all (fun b => (decodeAddr b).isSynchronous)

/-! ## Fields of a packed entry (30 R100) -/

/-- The `type` field, bits 63:56. -/
def entryType (w : EntryWord) : BitVec 8 := w.extractLsb' 56 8

/-- The `offset` field, bits 55:32. -/
def entryOffset (w : EntryWord) : BitVec 24 := w.extractLsb' 32 24

/-- The `payload` field, bits 31:0. -/
def entryPayload (w : EntryWord) : Word := w.extractLsb' 0 32

/-- The packed form (30 R100). -/
def packEntry (ty : BitVec 8) (off : BitVec 24) (payload : Word) : EntryWord := ty ++ off ++ payload

/-- The entry kind code of a space and a width (30 R101). -/
def kindCode : BusSpace → Width → BitVec 8
  | .mapped, .w1 => 0x01#8
  | .mapped, .w2 => 0x02#8
  | .mapped, .w4 => 0x03#8
  | .port, .w1 => 0x09#8
  | .port, .w2 => 0x0A#8
  | .port, .w4 => 0x0B#8

/-- The space and width of an entry kind code; `none` for Invalid and the reserved codes (30 R101). -/
def kindOf (ty : BitVec 8) : Option (BusSpace × Width) :=
  if ty = 0x01#8 then some (.mapped, .w1)
  else if ty = 0x02#8 then some (.mapped, .w2)
  else if ty = 0x03#8 then some (.mapped, .w4)
  else if ty = 0x09#8 then some (.port, .w1)
  else if ty = 0x0A#8 then some (.port, .w2)
  else if ty = 0x0B#8 then some (.port, .w4)
  else none

/-! ## The decoder -/

/-- Why a word is no instruction. -/
inductive DecodeError where
  /-- An entry type code outside 30 R101's table: the Consumer executes it as a no-op (30 R140). -/
  | reservedEntryType
  /-- A code that is none of the twelve Producer accesses (41 R170). -/
  | noSuchAccess
  /-- A code that is none of the twelve steps of the agents. -/
  | noSuchOperation
  /-- A port number of more than 16 bits (30 R100, 41 R170). -/
  | portBeyond16Bits
  /-- A set bit above the word's width or in a field the form does not use. -/
  | bitsBeyondWord
  /-- A word read as a Line's that has another CLASS (30 R121). -/
  | notALine
deriving DecidableEq, Repr

/-- The queue entry a 64-bit word is (30 R100, R101). -/
def decodeEntry (w : EntryWord) : Except DecodeError Instr :=
  match (entryType w).toNat with
  | 0x00 => .ok (.entryInvalid (entryOffset w) (entryPayload w))
  | 0x01 => .ok (.entryWriteByte (entryOffset w) (entryPayload w))
  | 0x02 => .ok (.entryWriteWord (entryOffset w) (entryPayload w))
  | 0x03 => .ok (.entryWriteDword (entryOffset w) (entryPayload w))
  | 0x09 => .ok (.entryOutByte (entryOffset w) (entryPayload w))
  | 0x0A => .ok (.entryOutWord (entryOffset w) (entryPayload w))
  | 0x0B => .ok (.entryOutDword (entryOffset w) (entryPayload w))
  | _ => .error .reservedEntryType

/-- The 16-bit port of a 24-bit address field, if its upper byte is zero. -/
def portOfAddr (a : BitVec 24) : Except DecodeError (BitVec 16) :=
  if a.extractLsb' 16 8 = 0#8 then .ok (a.extractLsb' 0 16) else .error .portBeyond16Bits

/-- A read's value field is not used and must be zero. -/
def ifNoValue (v : Word) (i : Instr) : Except DecodeError Instr :=
  if v = 0#32 then .ok i else .error .bitsBeyondWord

/-- The Producer access a word is, in the model's packing: a code, 24 bits of address, 32 of value.
A write has its entry kind's code (30 R101), a read that code plus 0x10 (log 15). -/
def decodeAccess (w : EntryWord) : Except DecodeError Instr :=
  let a := entryOffset w
  let v := entryPayload w
  match (entryType w).toNat with
  | 0x01 => .ok (.write8 a v)
  | 0x02 => .ok (.write16 a v)
  | 0x03 => .ok (.write32 a v)
  | 0x09 => (portOfAddr a).map (fun p => .out8 p v)
  | 0x0A => (portOfAddr a).map (fun p => .out16 p v)
  | 0x0B => (portOfAddr a).map (fun p => .out32 p v)
  | 0x11 => ifNoValue v (.read8 a)
  | 0x12 => ifNoValue v (.read16 a)
  | 0x13 => ifNoValue v (.read32 a)
  | 0x19 => (portOfAddr a).bind (fun p => ifNoValue v (.in8 p))
  | 0x1A => (portOfAddr a).bind (fun p => ifNoValue v (.in16 p))
  | 0x1B => (portOfAddr a).bind (fun p => ifNoValue v (.in32 p))
  | _ => .error .noSuchAccess

/-- The write row of a register's slot. -/
def wInstr (r : RegName) (sp : BusSpace) (lane : BitVec 2) (b : Byte) : Instr :=
  match r with
  | .curY => .wCurY sp lane b
  | .curX => .wCurX sp lane b
  | .destyAxstp => .wDestyAxstp sp lane b
  | .destxDiastp => .wDestxDiastp sp lane b
  | .errTerm => .wErrTerm sp lane b
  | .majAxisPcnt => .wMajAxisPcnt sp lane b
  | .cmd => .wCmd sp lane b
  | .shortStroke => .wShortStroke sp lane b
  | .bkgdColor => .wBkgdColor sp lane b
  | .frgdColor => .wFrgdColor sp lane b
  | .wrtMask => .wWrtMask sp lane b
  | .rdMask => .wRdMask sp lane b
  | .colorCmp => .wColorCmp sp lane b
  | .bkgdMix => .wBkgdMix sp lane b
  | .frgdMix => .wFrgdMix sp lane b
  | .multifunc => .wMultifuncCntl sp lane b

/-- The read row of a register's slot. -/
def rInstr (r : RegName) (sp : BusSpace) (lane : BitVec 2) : Instr :=
  match r with
  | .curY => .rCurY sp lane
  | .curX => .rCurX sp lane
  | .destyAxstp => .rDestyAxstp sp lane
  | .destxDiastp => .rDestxDiastp sp lane
  | .errTerm => .rErrTerm sp lane
  | .majAxisPcnt => .rMajAxisPcnt sp lane
  | .cmd => .rGpStat sp lane
  | .shortStroke => .rShortStroke sp lane
  | .bkgdColor => .rBkgdColor sp lane
  | .frgdColor => .rFrgdColor sp lane
  | .wrtMask => .rWrtMask sp lane
  | .rdMask => .rRdMask sp lane
  | .colorCmp => .rColorCmp sp lane
  | .bkgdMix => .rBkgdMix sp lane
  | .frgdMix => .rFrgdMix sp lane
  | .multifunc => .rMultifunc sp lane

/-- The space of a byte address. -/
def ByteAddr.space : ByteAddr → BusSpace
  | .mapped _ => .mapped
  | .port _ => .port

/-- The byte write a byte address and a byte are. -/
def byteWriteInstr (a : ByteAddr) (b : Byte) : Instr :=
  match decodeAddr a with
  | .reg r lane => wInstr r a.space lane b
  | .pixel lane =>
    match a with
    | .port _ => .wPixTrans .port lane b
    | .mapped o => if o < 0x8000 then .wPixTransWindow (BitVec.ofNat 15 o) b else .wPixTrans .mapped lane b
  | .none => .wNone a b

/-- The byte read a byte address is. -/
def byteReadInstr (a : ByteAddr) : Instr :=
  match decodeAddr a with
  | .reg r lane => rInstr r a.space lane
  | .pixel lane =>
    match a with
    | .port _ => .rPixTrans .port lane
    | .mapped o => if o < 0x8000 then .rPixTransWindow (BitVec.ofNat 15 o) else .rPixTrans .mapped lane
  | .none => .rNone a

/-- The byte address of a byte word: bit 32 set names the port space, bits 23:0 are the address. -/
def decodeByteAddr (w : EntryWord) : Except DecodeError ByteAddr :=
  if w.extractLsb' 33 31 = 0#31 then
    if w.getLsbD 32 then (portOfAddr (w.extractLsb' 0 24)).map .port
    else .ok (.mapped (w.extractLsb' 0 24).toNat)
  else .error .bitsBeyondWord

/-- A byte write: address as above, the byte in bits 31:24. -/
def decodeByteWrite (w : EntryWord) : Except DecodeError Instr :=
  (decodeByteAddr w).map (fun a => byteWriteInstr a (w.extractLsb' 24 8))

/-- A byte read: address as above, bits 31:24 zero. -/
def decodeByteRead (w : EntryWord) : Except DecodeError Instr :=
  if w.extractLsb' 24 8 = 0#8 then (decodeByteAddr w).map byteReadInstr else .error .bitsBeyondWord

/-- The command word a 16-bit word is, by CLASS (30 R120, R121). -/
def decodeCmd (w : BitVec 16) : Instr :=
  let lo := w.extractLsb' 0 13
  match (w.extractLsb' 13 3).toNat with
  | 0 => .cmdNop lo
  | 1 => .cmdLine lo
  | 2 => .cmdRect lo
  | 3 => .cmdRsv3 lo
  | 4 => .cmdRsv4 lo
  | 5 => .cmdRsv5 lo
  | 6 => .cmdBlit lo
  | _ => .cmdPat lo

/-- The Line command word a 16-bit word is, by RADIAL (30 R120, R123). -/
def decodeLineMode (w : BitVec 16) : Except DecodeError Instr :=
  if w.extractLsb' 13 3 = 1#3 then
    if w.getLsbD 3 then .ok (.cmdLineRadial (w.extractLsb' 4 9) (w.extractLsb' 0 3))
    else .ok (.cmdLineBresenham (w.extractLsb' 4 9) (w.extractLsb' 0 3))
  else .error .notALine

/-- The Raster ALU row of a mix word, by MIX_CODE (30 R125, R127; 43 R250). -/
def decodeMix (w : BitVec 16) : Instr :=
  let hi := w.extractLsb' 4 12
  match (w.extractLsb' 0 4).toNat with
  | 0 => .mixNotD hi
  | 1 => .mixZero hi
  | 2 => .mixOne hi
  | 3 => .mixD hi
  | 4 => .mixNotS hi
  | 5 => .mixSXorD hi
  | 6 => .mixSXnorD hi
  | 7 => .mixS hi
  | 8 => .mixSNandD hi
  | 9 => .mixNotSOrD hi
  | 10 => .mixSOrNotD hi
  | 11 => .mixSOrD hi
  | 12 => .mixSAndD hi
  | 13 => .mixSAndNotD hi
  | 14 => .mixNotSAndD hi
  | _ => .mixSNorD hi

/-- The source row of a mix word, by SRC_SEL (30 R125, R126). -/
def decodeSrc (w : BitVec 16) : Instr :=
  let hi := w.extractLsb' 7 9
  let lo := w.extractLsb' 0 5
  match (w.extractLsb' 5 2).toNat with
  | 0 => .srcBkgdColor hi lo
  | 1 => .srcFrgdColor hi lo
  | 2 => .srcCpuData hi lo
  | _ => .srcDisplayMemory hi lo

/-- The selector row of a PIX_CNTL word, by MIX_SEL (30 R131). -/
def decodeMixSel (w : BitVec 12) : Instr :=
  let hi := w.extractLsb' 8 4
  let lo := w.extractLsb' 0 6
  match (w.extractLsb' 6 2).toNat with
  | 0 => .mixselAlwaysFg hi lo
  | 1 => .mixselReservedAs0 hi lo
  | 2 => .mixselCpuData hi lo
  | _ => .mixselDisplayMemory hi lo

/-- The compare row of a MULT_MISC word, by CMP_MODE (30 R132). -/
def decodeCmp (w : BitVec 12) : Instr :=
  let hi := w.extractLsb' 9 3
  let lo := w.extractLsb' 0 7
  match (w.extractLsb' 7 2).toNat with
  | 0 => .cmpAlways hi lo
  | 1 => .cmpNever hi lo
  | 2 => .cmpNe hi lo
  | _ => .cmpEq hi lo

/-- The multifunction row of a word, by INDEX (30 R130; 10 R42). -/
def decodeMultifunc (w : BitVec 16) : Instr :=
  let data := w.extractLsb' 0 12
  match (w.extractLsb' 12 4).toNat with
  | 0 => .mfMinAxisPcnt data
  | 1 => .mfScissorsT data
  | 2 => .mfScissorsL data
  | 3 => .mfScissorsB data
  | 4 => .mfScissorsR data
  | 5 => .mfSlot5 data
  | 6 => .mfSlot6 data
  | 7 => .mfSlot7 data
  | 8 => .mfSlot8 data
  | 9 => .mfSlot9 data
  | 10 => .mfPixCntl data
  | 11 => .mfSlotb data
  | 12 => .mfSlotc data
  | 13 => .mfSlotd data
  | 14 => .mfMultMisc data
  | _ => .mfReadSel data

/-- The width a byte count names. -/
def widthOfBytes (n : BitVec 8) : Except DecodeError Width :=
  if n = 1#8 then .ok .w1 else if n = 2#8 then .ok .w2 else if n = 4#8 then .ok .w4
  else .error .noSuchAccess

/-- The read access of a STATUS-READ or DRAINED-READ word: address in bits 55:32, the port space by
bit 8, the width in bytes in bits 7:0. -/
def decodeReadAccess (w : EntryWord) : Except DecodeError Access :=
  if w.extractLsb' 9 23 = 0#23 then
    (widthOfBytes (w.extractLsb' 0 8)).bind fun wd =>
      if w.getLsbD 8 then
        (portOfAddr (entryOffset w)).map fun _ => ⟨.port, entryOffset w, wd⟩
      else .ok ⟨.mapped, entryOffset w, wd⟩
  else .error .bitsBeyondWord

/-- An operation with no operand: every bit below its code is zero. -/
def ifNoOperand (w : EntryWord) (i : Instr) : Except DecodeError Instr :=
  if w.extractLsb' 0 56 = 0#56 then .ok i else .error .bitsBeyondWord

/-- The agent step a word is, in the model's packing: a code in bits 63:56, operands below (log 15). -/
def decodeAgent (w : EntryWord) : Except DecodeError Instr :=
  match (entryType w).toNat with
  | 1 => ifNoOperand w .enqueue
  | 2 => ifNoOperand w .enqueueFull
  | 3 => ifNoOperand w .dequeueExecute
  | 4 => ifNoOperand w .wake
  | 5 => ifNoOperand w .empty
  | 6 => ifNoOperand w .stop
  | 7 => (decodeReadAccess w).map .statusRead
  | 8 => (decodeReadAccess w).map .drainedRead
  | 9 => ifNoOperand w .waitIdle
  | 10 => ifNoOperand w .reportUtilization
  | 11 => .ok (.config (w.extractLsb' 0 8).toNat (w.extractLsb' 8 16).toNat (w.extractLsb' 24 32).toNat)
  | 12 => ifNoOperand w .close
  | _ => .error .noSuchOperation

/-- A word of `n` bits: the bits above are zero. -/
def lowBits (n : Nat) (w : EntryWord) : Except DecodeError (BitVec n) :=
  if w.toNat < 2 ^ n then .ok (w.setWidth n) else .error .bitsBeyondWord

/-- The decoder: total, rejecting by name. -/
def decode (sp : WordSpace) (w : EntryWord) : Except DecodeError Instr :=
  match sp with
  | .entry => decodeEntry w
  | .access => decodeAccess w
  | .byteWrite => decodeByteWrite w
  | .byteRead => decodeByteRead w
  | .cmd => (lowBits 16 w).map decodeCmd
  | .lineMode => (lowBits 16 w).bind decodeLineMode
  | .mix => (lowBits 16 w).map decodeMix
  | .src => (lowBits 16 w).map decodeSrc
  | .mixSel => (lowBits 12 w).map decodeMixSel
  | .cmp => (lowBits 12 w).map decodeCmp
  | .multifunc => (lowBits 16 w).map decodeMultifunc
  | .agent => decodeAgent w

/-! ## The encoder, from the same tables -/

/-- A byte word: the address space in bit 32, the byte in bits 31:24, the address in bits 23:0. -/
def packByte (a : ByteAddr) (b : Byte) : EntryWord :=
  match a with
  | .mapped o => 0#32 ++ b ++ BitVec.ofNat 24 o
  | .port p => 1#32 ++ b ++ 0#8 ++ p

/-- The address of a register lane in either space: the mapped alias has the port's number (30 R113). -/
def laneAddr (sp : BusSpace) (p : BitVec 16) : ByteAddr :=
  match sp with
  | .mapped => .mapped p.toNat
  | .port => .port p

/-- A register byte write's word. -/
def encodeW (r : RegName) (sp : BusSpace) (lane : BitVec 2) (b : Byte) : WordSpace × EntryWord :=
  (.byteWrite, packByte (laneAddr sp (r.port lane)) b)

/-- A register byte read's word. -/
def encodeR (r : RegName) (sp : BusSpace) (lane : BitVec 2) : WordSpace × EntryWord :=
  (.byteRead, packByte (laneAddr sp (r.port lane)) 0#8)

/-- The width in bytes. -/
def Width.bytes : Width → Nat
  | .w1 => 1
  | .w2 => 2
  | .w4 => 4

/-- A STATUS-READ or DRAINED-READ word. -/
def packReadAccess (code : BitVec 8) (a : Access) : EntryWord :=
  code ++ a.addr ++ 0#23 ++ (match a.space with | .mapped => 0#1 | .port => 1#1)
    ++ BitVec.ofNat 8 a.width.bytes

/-- The command word of a class and its other bits (30 R120, R121). -/
def cmdWord (cls : BitVec 3) (lo : BitVec 13) : BitVec 16 := cls ++ lo

/-- A Line command word with the given RADIAL bit (30 R120). -/
def lineWord (hi : BitVec 9) (radial : BitVec 1) (lo : BitVec 3) : BitVec 16 := 1#3 ++ hi ++ radial ++ lo

/-- The encoder. -/
def encode : Instr → WordSpace × EntryWord
  | .entryInvalid off payload => (.entry, packEntry 0x00#8 off payload)
  | .entryWriteByte off payload => (.entry, packEntry 0x01#8 off payload)
  | .entryWriteWord off payload => (.entry, packEntry 0x02#8 off payload)
  | .entryWriteDword off payload => (.entry, packEntry 0x03#8 off payload)
  | .entryOutByte off payload => (.entry, packEntry 0x09#8 off payload)
  | .entryOutWord off payload => (.entry, packEntry 0x0A#8 off payload)
  | .entryOutDword off payload => (.entry, packEntry 0x0B#8 off payload)
  | .write8 a v => (.access, packEntry 0x01#8 a v)
  | .write16 a v => (.access, packEntry 0x02#8 a v)
  | .write32 a v => (.access, packEntry 0x03#8 a v)
  | .out8 p v => (.access, packEntry 0x09#8 (0#8 ++ p) v)
  | .out16 p v => (.access, packEntry 0x0A#8 (0#8 ++ p) v)
  | .out32 p v => (.access, packEntry 0x0B#8 (0#8 ++ p) v)
  | .read8 a => (.access, packEntry 0x11#8 a 0#32)
  | .read16 a => (.access, packEntry 0x12#8 a 0#32)
  | .read32 a => (.access, packEntry 0x13#8 a 0#32)
  | .in8 p => (.access, packEntry 0x19#8 (0#8 ++ p) 0#32)
  | .in16 p => (.access, packEntry 0x1A#8 (0#8 ++ p) 0#32)
  | .in32 p => (.access, packEntry 0x1B#8 (0#8 ++ p) 0#32)
  | .wCurY sp lane b => encodeW .curY sp lane b
  | .wCurX sp lane b => encodeW .curX sp lane b
  | .wDestyAxstp sp lane b => encodeW .destyAxstp sp lane b
  | .wDestxDiastp sp lane b => encodeW .destxDiastp sp lane b
  | .wErrTerm sp lane b => encodeW .errTerm sp lane b
  | .wMajAxisPcnt sp lane b => encodeW .majAxisPcnt sp lane b
  | .wCmd sp lane b => encodeW .cmd sp lane b
  | .wShortStroke sp lane b => encodeW .shortStroke sp lane b
  | .wBkgdColor sp lane b => encodeW .bkgdColor sp lane b
  | .wFrgdColor sp lane b => encodeW .frgdColor sp lane b
  | .wWrtMask sp lane b => encodeW .wrtMask sp lane b
  | .wRdMask sp lane b => encodeW .rdMask sp lane b
  | .wColorCmp sp lane b => encodeW .colorCmp sp lane b
  | .wBkgdMix sp lane b => encodeW .bkgdMix sp lane b
  | .wFrgdMix sp lane b => encodeW .frgdMix sp lane b
  | .wMultifuncCntl sp lane b => encodeW .multifunc sp lane b
  | .wPixTrans sp lane b => (.byteWrite, packByte (laneAddr sp (pixTransBase + lane.setWidth 16)) b)
  | .wPixTransWindow a b => (.byteWrite, packByte (.mapped a.toNat) b)
  | .wNone a b => (.byteWrite, packByte a b)
  | .rCurY sp lane => encodeR .curY sp lane
  | .rCurX sp lane => encodeR .curX sp lane
  | .rDestyAxstp sp lane => encodeR .destyAxstp sp lane
  | .rDestxDiastp sp lane => encodeR .destxDiastp sp lane
  | .rErrTerm sp lane => encodeR .errTerm sp lane
  | .rMajAxisPcnt sp lane => encodeR .majAxisPcnt sp lane
  | .rGpStat sp lane => encodeR .cmd sp lane
  | .rShortStroke sp lane => encodeR .shortStroke sp lane
  | .rBkgdColor sp lane => encodeR .bkgdColor sp lane
  | .rFrgdColor sp lane => encodeR .frgdColor sp lane
  | .rWrtMask sp lane => encodeR .wrtMask sp lane
  | .rRdMask sp lane => encodeR .rdMask sp lane
  | .rColorCmp sp lane => encodeR .colorCmp sp lane
  | .rBkgdMix sp lane => encodeR .bkgdMix sp lane
  | .rFrgdMix sp lane => encodeR .frgdMix sp lane
  | .rMultifunc sp lane => encodeR .multifunc sp lane
  | .rPixTrans sp lane => (.byteRead, packByte (laneAddr sp (pixTransBase + lane.setWidth 16)) 0#8)
  | .rPixTransWindow a => (.byteRead, packByte (.mapped a.toNat) 0#8)
  | .rNone a => (.byteRead, packByte a 0#8)
  | .cmdNop lo => (.cmd, (cmdWord 0#3 lo).setWidth 64)
  | .cmdLine lo => (.cmd, (cmdWord 1#3 lo).setWidth 64)
  | .cmdRect lo => (.cmd, (cmdWord 2#3 lo).setWidth 64)
  | .cmdRsv3 lo => (.cmd, (cmdWord 3#3 lo).setWidth 64)
  | .cmdRsv4 lo => (.cmd, (cmdWord 4#3 lo).setWidth 64)
  | .cmdRsv5 lo => (.cmd, (cmdWord 5#3 lo).setWidth 64)
  | .cmdBlit lo => (.cmd, (cmdWord 6#3 lo).setWidth 64)
  | .cmdPat lo => (.cmd, (cmdWord 7#3 lo).setWidth 64)
  | .cmdLineBresenham hi lo => (.lineMode, (lineWord hi 0#1 lo).setWidth 64)
  | .cmdLineRadial hi lo => (.lineMode, (lineWord hi 1#1 lo).setWidth 64)
  | .mixNotD hi => (.mix, (hi ++ 0#4).setWidth 64)
  | .mixZero hi => (.mix, (hi ++ 1#4).setWidth 64)
  | .mixOne hi => (.mix, (hi ++ 2#4).setWidth 64)
  | .mixD hi => (.mix, (hi ++ 3#4).setWidth 64)
  | .mixNotS hi => (.mix, (hi ++ 4#4).setWidth 64)
  | .mixSXorD hi => (.mix, (hi ++ 5#4).setWidth 64)
  | .mixSXnorD hi => (.mix, (hi ++ 6#4).setWidth 64)
  | .mixS hi => (.mix, (hi ++ 7#4).setWidth 64)
  | .mixSNandD hi => (.mix, (hi ++ 8#4).setWidth 64)
  | .mixNotSOrD hi => (.mix, (hi ++ 9#4).setWidth 64)
  | .mixSOrNotD hi => (.mix, (hi ++ 10#4).setWidth 64)
  | .mixSOrD hi => (.mix, (hi ++ 11#4).setWidth 64)
  | .mixSAndD hi => (.mix, (hi ++ 12#4).setWidth 64)
  | .mixSAndNotD hi => (.mix, (hi ++ 13#4).setWidth 64)
  | .mixNotSAndD hi => (.mix, (hi ++ 14#4).setWidth 64)
  | .mixSNorD hi => (.mix, (hi ++ 15#4).setWidth 64)
  | .srcBkgdColor hi lo => (.src, (hi ++ 0#2 ++ lo).setWidth 64)
  | .srcFrgdColor hi lo => (.src, (hi ++ 1#2 ++ lo).setWidth 64)
  | .srcCpuData hi lo => (.src, (hi ++ 2#2 ++ lo).setWidth 64)
  | .srcDisplayMemory hi lo => (.src, (hi ++ 3#2 ++ lo).setWidth 64)
  | .mixselAlwaysFg hi lo => (.mixSel, (hi ++ 0#2 ++ lo).setWidth 64)
  | .mixselReservedAs0 hi lo => (.mixSel, (hi ++ 1#2 ++ lo).setWidth 64)
  | .mixselCpuData hi lo => (.mixSel, (hi ++ 2#2 ++ lo).setWidth 64)
  | .mixselDisplayMemory hi lo => (.mixSel, (hi ++ 3#2 ++ lo).setWidth 64)
  | .cmpAlways hi lo => (.cmp, (hi ++ 0#2 ++ lo).setWidth 64)
  | .cmpNever hi lo => (.cmp, (hi ++ 1#2 ++ lo).setWidth 64)
  | .cmpNe hi lo => (.cmp, (hi ++ 2#2 ++ lo).setWidth 64)
  | .cmpEq hi lo => (.cmp, (hi ++ 3#2 ++ lo).setWidth 64)
  | .mfMinAxisPcnt data => (.multifunc, (0#4 ++ data).setWidth 64)
  | .mfScissorsT data => (.multifunc, (1#4 ++ data).setWidth 64)
  | .mfScissorsL data => (.multifunc, (2#4 ++ data).setWidth 64)
  | .mfScissorsB data => (.multifunc, (3#4 ++ data).setWidth 64)
  | .mfScissorsR data => (.multifunc, (4#4 ++ data).setWidth 64)
  | .mfSlot5 data => (.multifunc, (5#4 ++ data).setWidth 64)
  | .mfSlot6 data => (.multifunc, (6#4 ++ data).setWidth 64)
  | .mfSlot7 data => (.multifunc, (7#4 ++ data).setWidth 64)
  | .mfSlot8 data => (.multifunc, (8#4 ++ data).setWidth 64)
  | .mfSlot9 data => (.multifunc, (9#4 ++ data).setWidth 64)
  | .mfPixCntl data => (.multifunc, (10#4 ++ data).setWidth 64)
  | .mfSlotb data => (.multifunc, (11#4 ++ data).setWidth 64)
  | .mfSlotc data => (.multifunc, (12#4 ++ data).setWidth 64)
  | .mfSlotd data => (.multifunc, (13#4 ++ data).setWidth 64)
  | .mfMultMisc data => (.multifunc, (14#4 ++ data).setWidth 64)
  | .mfReadSel data => (.multifunc, (15#4 ++ data).setWidth 64)
  | .enqueue => (.agent, packEntry 1#8 0#24 0#32)
  | .enqueueFull => (.agent, packEntry 2#8 0#24 0#32)
  | .dequeueExecute => (.agent, packEntry 3#8 0#24 0#32)
  | .wake => (.agent, packEntry 4#8 0#24 0#32)
  | .empty => (.agent, packEntry 5#8 0#24 0#32)
  | .stop => (.agent, packEntry 6#8 0#24 0#32)
  | .statusRead a => (.agent, packReadAccess 7#8 a)
  | .drainedRead a => (.agent, packReadAccess 8#8 a)
  | .waitIdle => (.agent, packEntry 9#8 0#24 0#32)
  | .reportUtilization => (.agent, packEntry 10#8 0#24 0#32)
  | .config pb pitch vramBytes =>
    (.agent, 11#8 ++ BitVec.ofNat 32 vramBytes ++ BitVec.ofNat 16 pitch ++ BitVec.ofNat 8 pb)
  | .close => (.agent, packEntry 12#8 0#24 0#32)

/-! ## Words of the opcode table -/

/-- The space a word of the opcode table is read in, and the word. The table gives rows of different
registers the same bit patterns and names no space, so this choice is the model's (log 16): 64-bit
words are queue entries; words of 17 to 32 bits are mapped byte writes; a 16-bit word is a byte write
if it is a port of the register map, else the first of compare, mix, source, selector, radial Line,
multifunction (bit 12 set) whose field holds it, else a command word; a word of up to 8 bits is a
source, a selector or a mix word. -/
def tableWord (nbits w : Nat) : WordSpace × EntryWord :=
  let v := BitVec.ofNat 64 (w % 2 ^ nbits)
  let within (mask : EntryWord) : Bool := v != 0#64 && v &&& ~~~mask == 0#64
  if 32 < nbits then (.entry, v)
  else if 16 < nbits then (.byteWrite, v)
  else if 8 < nbits then
    if decodePort (v.setWidth 16) ≠ .none then (.byteWrite, v ||| 0x100000000#64)
    else if within 0x180#64 then (.cmp, v)
    else if within 0x0F#64 then (.mix, v)
    else if within 0x60#64 then (.src, v)
    else if within 0xC0#64 then (.mixSel, v)
    else if v &&& 0xE008#64 = 0x2008#64 then (.lineMode, v)
    else if v.getLsbD 12 then (.multifunc, v)
    else (.cmd, v)
  else if within 0x60#64 then (.src, v)
  else if within 0xC0#64 then (.mixSel, v)
  else (.mix, v)

/-- The instruction the decoder reads from a word of the opcode table; `none` where it refuses. -/
def decodeTableWord (nbits w : Nat) : Option Instr :=
  if 64 < nbits then none
  else (decode (tableWord nbits w).1 (tableWord nbits w).2).toOption

end Sys2Proof
end

