-- ==== Sys2Proof/Machine/State.lean ====
section
/-! DEFINITION. The state of one device instance (spec/10_state.md), plain data, and its value right
after construction (10 R50, 70 R401). Fields the spec does not name are said to be the model's own. -/

namespace Sys2Proof.Machine

/-- The framebuffer: (address, byte) pairs in one canonical form, see `Memory.wf` (20 R70). -/
abbrev Memory := List Host.Cell

/-- What an address that a `Memory` does not list reads as (log 8). -/
def Memory.unlisted : Byte := 0#8

/-- The canonical form: addresses strictly rising, no entry equal to what an unlisted address reads
as. -/
abbrev Memory.wf (m : Memory) : Prop :=
  m.Pairwise (fun x y => x.1 < y.1) ∧ ∀ c ∈ m, c.2 ≠ Memory.unlisted

/-- The command queue (10 R32): packed entries, Invalid being type code 0. The cursors are unbounded
naturals (10 R31). -/
structure Queue where
  slots : List EntryWord
  rd : Nat
  wr : Nat
deriving DecidableEq, Repr

/-- The Consumer's state (10 R35). -/
inductive CState where
  | idle
  | draining
  | stopped
deriving DecidableEq, Repr

/-- The Producer's state (10 R36). -/
inductive PState where
  | ready
  /-- `WaitRoom(pending)`: the entries of the current access not yet enqueued. `held` is the model's:
  true once 40 R152 has found the queue full, false between two ENQUEUEs of one access (log 6). -/
  | waitRoom (held : Bool) (pending : List EntryWord)
  /-- `WaitDrain(req)`: a register read waiting for the queue to drain. -/
  | waitDrain (req : Access)
deriving DecidableEq, Repr

/-- The Host's position, the model's own: the spec gives its holds, not a name (45 R354, 10 R38;
log 20). -/
inductive HState where
  | ready
  /-- WAIT-IDLE holds (45 R354). -/
  | waitIdle
  /-- close waits for `Stopped` (10 R38). -/
  | waitStopped
  /-- WAIT-IDLE holds and close, called meanwhile, waits for `Stopped` (92 D44). -/
  | waitBoth
deriving DecidableEq, Repr

/-- The accelerator register file (10 R40, R42). -/
structure Regs where
  curY : Half
  curX : Half
  destyAxstp : Half
  destxDiastp : Half
  errTerm : Half
  majAxisPcnt : Slot12
  cmd : Half
  shortStroke : Half
  bkgdColor : Word
  frgdColor : Word
  wrtMask : Word
  rdMask : Word
  colorCmp : Word
  bkgdMix : Half
  frgdMix : Half
  mfLatch : Half
  mf : Vector Slot12 16
  stage : Vector Byte 4
  stageCnt : Nat
deriving DecidableEq, Repr

/-- The class of the running primitive (10 R43). -/
inductive Cls where
  | line
  | rect
  | blit
  | pat
deriving DecidableEq, Repr

/-- The feed mode (10 R43; 44 R291). -/
inductive Feed where
  | none
  | mono
  | colour
deriving DecidableEq, Repr

/-- The execution state of the primitive engine (10 R43). `u` is `U`, `w` is `W`. -/
structure Ex where
  active : Bool
  cls : Cls
  cmd : Half
  ms : BitVec 2
  feed : Feed
  u : Nat
  x : Half
  y : Half
  x0 : Half
  sx : Half
  sy : Half
  sx0 : Half
  tx : Half
  ty : Half
  px : BitVec 3
  py : BitVec 3
  px0 : BitVec 3
  left : Nat
  w : Slot12
  rows : Int
  err : Half
  maj : Slot12
  ax : Half
  dia : Half
deriving DecidableEq, Repr

/-- A feed item: a bit, a pixel datum, or none (43 R253). -/
inductive Item where
  | none
  | bit (b : Bool)
  | pix (v : Word)
deriving DecidableEq, Repr

/-- The variables of one run of the per-pixel pipeline (43 R253), the model's own: kept so that one
stage can run alone (log 13). `pass` is the compare gate's answer. -/
structure Pipe where
  item : Item
  vsrc : Word
  sel : Bool
  mix : Half
  src : Word
  pass : Bool
  d : Word
  r : Word
  out : Word
deriving DecidableEq, Repr

/-- What was last returned to the outside, the model's own (log 12). -/
structure Outputs where
  /-- The value of the last completed Producer read (45 R350, R352). -/
  busData : Option Word
  /-- The value of the last REPORT-UTILIZATION (45 R356). -/
  utilization : Option Nat
  /-- The byte of the last Host framebuffer read (20 R77). -/
  fbByte : Option Byte
deriving DecidableEq, Repr

/-- What the outside world and the scheduler choose next (log 1). -/
inductive Input where
  /-- An operation word, decoded in its space and run. -/
  | word (sp : WordSpace) (w : EntryWord)
  /-- A Host write of one framebuffer byte (20 R79). -/
  | hostWrite (a : Nat) (b : Byte)
  /-- A Host read of one framebuffer byte (20 R77). -/
  | hostRead (a : Nat)
  /-- The Host clears a dirty bit (20 R77). -/
  | clearDirty (page : Nat)
deriving DecidableEq, Repr

/-- The state of the machine. -/
structure State where
  params : Params
  queue : Queue
  wakePending : Bool
  stop : Bool
  cstate : CState
  busy : Bool
  pstate : PState
  hstate : HState
  regs : Regs
  ex : Ex
  pipe : Pipe
  fb : Memory
  /-- The dirty bits that are set, as a strictly rising list of pages (10 R46). -/
  dirty : List Nat
  out : Outputs
  inputs : List Input
  /-- The counter the free values are taken at, the model's own (log 10, log 11). -/
  freeCtr : Nat
deriving DecidableEq, Repr

/-- Why the machine stops with a fault. -/
inductive Fault where
  /-- Raised by an ENQUEUE or DEQUEUE-EXECUTE that would break `0 <= q.wr - q.rd <= QCAP`, with the
  cursors before the step (40 R154, 60 R372). SAFE: the spec's own model fault. -/
  | queueInvariant (rd wr : Nat)
deriving DecidableEq, Repr

/-- Why the machine refuses an operation. -/
inductive Refusal where
  /-- Raised by an arm of `exec` whose instruction has no meaning yet. SAFE: the model stops. -/
  | notModelled (mnemonic : String)
  /-- Raised by an access the Producer cannot issue: it is not Ready, or the operation does not take
  this access (41 R170, 45 R350, R352). SAFE: the spec has the model refuse it. -/
  | cannotIssue
  /-- Raised by a Producer access after close (41 R186). SAFE: the spec has the model refuse it. -/
  | closed
  /-- Raised by CONFIG with values outside 00 R9's ranges (00 R9, R10). SAFE: as the spec says. -/
  | badConfiguration
  /-- Raised by CONFIG while entries are queued or the Consumer drains (70 R414). SAFE: as the spec
  says. -/
  | configWhileBusy
  /-- Raised by `step` on an input word that is no instruction (log 15). SAFE: the model stops. -/
  | undecodable (e : DecodeError)
deriving DecidableEq, Repr

/-- The register file after construction (10 R40, R50: "Registers zero-initialized"). -/
def Regs.reset : Regs where
  curY := 0#16
  curX := 0#16
  destyAxstp := 0#16
  destxDiastp := 0#16
  errTerm := 0#16
  majAxisPcnt := 0#12
  cmd := 0#16
  shortStroke := 0#16
  bkgdColor := 0#32
  frgdColor := 0#32
  wrtMask := 0#32
  rdMask := 0#32
  colorCmp := 0#32
  bkgdMix := 0#16
  frgdMix := 0#16
  mfLatch := 0#16
  mf := Vector.replicate 16 0#12
  stage := Vector.replicate 4 0#8
  stageCnt := 0

/-- The execution state after construction: every field 0, not active, feed NONE (10 R43, R50). The
class is the model's choice (log 14). -/
def Ex.reset : Ex where
  active := false
  cls := .line
  cmd := 0#16
  ms := 0#2
  feed := .none
  u := 0
  x := 0#16
  y := 0#16
  x0 := 0#16
  sx := 0#16
  sy := 0#16
  sx0 := 0#16
  tx := 0#16
  ty := 0#16
  px := 0#3
  py := 0#3
  px0 := 0#3
  left := 0
  w := 0#12
  rows := 0
  err := 0#16
  maj := 0#12
  ax := 0#16
  dia := 0#16

/-- The pipeline's variables before any pixel (log 13). -/
def Pipe.reset : Pipe where
  item := .none
  vsrc := 0#32
  sel := false
  mix := 0#16
  src := 0#32
  pass := false
  d := 0#32
  r := 0#32
  out := 0#32

/-- The state after construction with the Host's parameters and the free contents of the framebuffer
and the dirty bitmap (70 R401; 10 R45, R46, R50). -/
def State.construct (p : Params) (picture : Memory) (dirtyPages : List Nat) : State where
  params := p
  queue := { slots := List.replicate p.qcap 0#64, rd := 0, wr := 0 }
  wakePending := false
  stop := false
  cstate := .idle
  busy := false
  pstate := .ready
  hstate := .ready
  regs := Regs.reset
  ex := Ex.reset
  pipe := Pipe.reset
  fb := picture
  dirty := dirtyPages
  out := { busData := none, utilization := none, fbByte := none }
  inputs := []
  freeCtr := 0

/-- The parameters of the reset state: the model's choice among those the spec admits (log 7). -/
def resetParams : Params where
  qcap := 8
  pb := 1
  pitch := 1024
  vramBytes := 65536

/-- The machine right after reset: device construction, the only reset (70 R400), with the reset
parameters (log 7), a picture of zeros and no dirty page (log 8). -/
def State.reset : State := State.construct resetParams [] []

end Sys2Proof.Machine
end

