-- ==== Sys2Proof/Machine/Ops.lean ====
section
/-! DEFINITION. The named operations over the state: field updates, the framebuffer
(spec/20_memory.md R70 to R74), the dirty bitmap (spec/43_raster_alu.md R262), the byte merge
(spec/42_register_file.md R203) and the queue (spec/40_command_queue.md R151, R153). The block takes no
exception and returns from none (spec/60_exceptions.md R370, R376, R377), so no such operation stands
here. -/

namespace Sys2Proof.Machine

/-- The outcome of a meaning. -/
abbrev Result := Host.Outcome State Fault Refusal

/-! ## Field updates -/

/-- Replace the parameters. -/
def State.withParams (s : State) (p : Params) : State := { s with params := p }
/-- Replace the queue. -/
def State.withQueue (s : State) (q : Queue) : State := { s with queue := q }
/-- Replace `wake_pending`. -/
def State.withWake (s : State) (b : Bool) : State := { s with wakePending := b }
/-- Replace `stop`. -/
def State.withStop (s : State) (b : Bool) : State := { s with stop := b }
/-- Replace `cstate` and `busy` together (10 R35: the Consumer writes both). -/
def State.withConsumer (s : State) (c : CState) (b : Bool) : State := { s with cstate := c, busy := b }
/-- Replace `pstate`. -/
def State.withPState (s : State) (p : PState) : State := { s with pstate := p }
/-- Replace the Host's position. -/
def State.withHState (s : State) (h : HState) : State := { s with hstate := h }
/-- Replace the register file. -/
def State.withRegs (s : State) (r : Regs) : State := { s with regs := r }
/-- Replace the execution state. -/
def State.withEx (s : State) (e : Ex) : State := { s with ex := e }
/-- Replace the pipeline's variables. -/
def State.withPipe (s : State) (p : Pipe) : State := { s with pipe := p }
/-- Replace the framebuffer. -/
def State.withFb (s : State) (m : Memory) : State := { s with fb := m }
/-- Replace the dirty bitmap. -/
def State.withDirty (s : State) (d : List Nat) : State := { s with dirty := d }
/-- Replace what was last returned. -/
def State.withOut (s : State) (o : Outputs) : State := { s with out := o }
/-- Replace the inputs. -/
def State.withInputs (s : State) (i : List Input) : State := { s with inputs := i }
/-- Replace the counter of the free values. -/
def State.withFreeCtr (s : State) (n : Nat) : State := { s with freeCtr := n }

/-! ## Memory -/

/-- The byte at an address. -/
def Memory.read : Memory → Nat → Byte
  | [], _ => Memory.unlisted
  | c :: m, x => if c.1 = x then c.2 else Memory.read m x

/-- The entry for a byte, if it needs one. -/
def Memory.cell (x : Nat) (v : Byte) : Memory := if v = Memory.unlisted then [] else [(x, v)]

/-- Write one byte, keeping the canonical form. -/
def Memory.write : Memory → Nat → Byte → Memory
  | [], x, v => Memory.cell x v
  | c :: m, x, v =>
    if x < c.1 then Memory.cell x v ++ c :: m
    else if x = c.1 then Memory.cell x v ++ m
    else c :: Memory.write m x v

/-- The little-endian value of `n` bytes (20 R72). -/
def gatherLE (f : Nat → Byte) : Nat → Word
  | 0 => 0#32
  | n + 1 => gatherLE f n ||| (f n).setWidth 32 <<< (8 * n)

/-- Byte `i` of a 32-bit value: bits `8i+7:8i` (20 R72). -/
def byteOf (v : Word) (i : Nat) : Byte := v.extractLsb' (8 * i) 8

/-- The framebuffer byte at an address, reduced by the size (20 R72, R81; `VRAM_BYTES` is a power of
two, so `mod VRAM_BYTES` is `& VMASK`). -/
def State.fbAt (s : State) (a : Nat) : Byte := s.fb.read (a % s.params.vramBytes)

/-- `MemRead(a, PB)` (20 R72). -/
def State.memRead (s : State) (a : Nat) : Word := gatherLE (fun i => s.fbAt (a + i)) s.params.pb

/-- The framebuffer after the first `n` bytes of `v` are written at `a` (20 R72). -/
def scatterLE (size : Nat) (a : Nat) (v : Word) (m : Memory) : Nat → Memory
  | 0 => m
  | n + 1 => Memory.write (scatterLE size a v m n) ((a + n) % size) (byteOf v n)

/-- `MemWrite(a, PB, v)` (20 R72). -/
def State.memWrite (s : State) (a : Nat) (v : Word) : State :=
  s.withFb (scatterLE s.params.vramBytes a v s.fb s.params.pb)

/-! ## The dirty bitmap -/

/-- Put a page into a strictly rising list of pages. -/
def insertPage (p : Nat) : List Nat → List Nat
  | [] => [p]
  | q :: l => if p < q then p :: q :: l else if p = q then q :: l else q :: insertPage p l

/-- The dirty page of a framebuffer byte address (00 R17). -/
def pageOf (a : Nat) : Nat := a / 2 ^ Config.dirtyLog

/-- `dirty[a >> DIRTY_LOG] <- 1` (43 R262). -/
def State.markDirty (s : State) (a : Nat) : State := s.withDirty (insertPage (pageOf a) s.dirty)

/-- The Host clears a dirty bit (20 R77). -/
def State.clearDirty (s : State) (page : Nat) : State := s.withDirty (s.dirty.filter (fun p => p != page))

/-- How many dirty pages a framebuffer has (10 R46). -/
def pageCount (p : Params) : Nat := p.vramBytes / 2 ^ Config.dirtyLog

/-- A framebuffer of the given size from a list of byte writes: the form free contents take (log 10). -/
def pictureOf (size : Nat) (l : List (Nat × Byte)) : Memory :=
  l.foldl (fun m c => Memory.write m (c.1 % size) c.2) []

/-- A dirty bitmap of the given number of pages from a list of pages (log 10). -/
def dirtyOf (pages : Nat) (l : List Nat) : List Nat :=
  l.foldl (fun d p => insertPage (p % pages) d) []

/-! ## Register bytes -/

/-- The byte merge (42 R203). -/
def mergeByte {n : Nat} (stored : BitVec n) (lane : BitVec 2) (b : Byte) : BitVec n :=
  (stored &&& ~~~((0xFF#8).setWidth n <<< (8 * lane.toNat))) ||| (b.setWidth n <<< (8 * lane.toNat))

/-- Lanes 2 and 3 of a 16-bit register are unused (30 R111). -/
def unusedLane (lane : BitVec 2) : Bool := 2 ≤ lane.toNat

/-- `zext_16(raw[11:0])` (42 R204). -/
def zext12 (raw : Half) : Half := (raw.setWidth 12).setWidth 16

/-- `sext_14(raw[13:0])` (42 R206). -/
def sext14 (raw : Half) : Half := (raw.setWidth 14).signExtend 16

/-! ## The queue -/

/-- The slot of a cursor: `cursor & QMASK` (10 R31; `QCAP` is a power of two, so this is
`cursor mod QCAP`). -/
def slotIndex (p : Params) (cursor : Nat) : Nat := cursor % p.qcap

/-- `q.slot[q.wr & QMASK] <- e; q.wr <- q.wr + 1` (40 R151). -/
def State.pushEntry (s : State) (e : EntryWord) : State :=
  s.withQueue { s.queue with
    slots := s.queue.slots.set (slotIndex s.params s.queue.wr) e, wr := s.queue.wr + 1 }

/-- The head entry: `q.slot[q.rd & QMASK]` (40 R153). -/
def State.headEntry (s : State) : EntryWord := s.queue.slots.getD (slotIndex s.params s.queue.rd) 0#64

/-- `q.slot[q.rd & QMASK] <- Invalid; q.rd <- q.rd + 1` (40 R153). -/
def State.popEntry (s : State) : State :=
  s.withQueue { s.queue with
    slots := s.queue.slots.set (slotIndex s.params s.queue.rd) 0#64, rd := s.queue.rd + 1 }

end Sys2Proof.Machine
end

