-- ==== Sys2Proof/Machine/Operands.lean ====
section
/-! DEFINITION. The fields of the command word, the mix registers and the multifunction slots
(spec/30_encoding.md R120 to R134), pixel masks and addresses (spec/00_scope.md R11, spec/20_memory.md
R74), and the items of a feed unit (spec/44_primitives.md R292, R293). -/

namespace Sys2Proof.Machine

/-! ## Multifunction slots (10 R42; 30 R131 to R134) -/

/-- `mf[0]`, the row count. -/
def Regs.minAxisPcnt (r : Regs) : Slot12 := r.mf[0]
/-- `mf[1]`, clip top. -/
def Regs.scissorsT (r : Regs) : Slot12 := r.mf[1]
/-- `mf[2]`, clip left. -/
def Regs.scissorsL (r : Regs) : Slot12 := r.mf[2]
/-- `mf[3]`, clip bottom. -/
def Regs.scissorsB (r : Regs) : Slot12 := r.mf[3]
/-- `mf[4]`, clip right. -/
def Regs.scissorsR (r : Regs) : Slot12 := r.mf[4]
/-- `MIX_SEL`, bits 7:6 of `PIX_CNTL = mf[0xA]` (30 R131). -/
def Regs.mixSel (r : Regs) : BitVec 2 := r.mf[10].extractLsb' 6 2
/-- `CMP_MODE`, bits 8:7 of `MULT_MISC = mf[0xE]` (30 R132). -/
def Regs.cmpMode (r : Regs) : BitVec 2 := r.mf[14].extractLsb' 7 2
/-- `READ_SEL`, bits 3:0 of `mf[0xF]` (30 R134). -/
def Regs.readSel (r : Regs) : BitVec 4 := r.mf[15].extractLsb' 0 4
/-- The slot of a 4-bit index (42 R222, R242). -/
def Regs.mfAt (r : Regs) (i : BitVec 4) : Slot12 := r.mf[i.toNat]'i.isLt
/-- Write the slot of a 4-bit index (42 R222). -/
def Regs.setMf (r : Regs) (i : BitVec 4) (v : Slot12) : Regs := { r with mf := r.mf.set i.toNat v i.isLt }

/-! ## The command word (30 R120 to R123) -/

/-- The class a command word starts; `none` for the four no-op classes (30 R121; 44 R280). -/
def classOf (c : Half) : Option Cls :=
  match (c.extractLsb' 13 3).toNat with
  | 1 => some .line
  | 2 => some .rect
  | 6 => some .blit
  | 7 => some .pat
  | _ => none

/-- `BYTE_SWAP`, bit 12. -/
def byteSwap (c : Half) : Bool := c.getLsbD 12
/-- `bus_bytes` of `BUS_SIZE`, bits 10:9; the reserved value 3 acts as 2 (30 R122). -/
def busBytes (c : Half) : Nat :=
  match (c.extractLsb' 9 2).toNat with
  | 0 => 1
  | 1 => 2
  | _ => 4
/-- `PCDATA`, bit 8. -/
def pcData (c : Half) : Bool := c.getLsbD 8
/-- `YMAJOR`, bit 6. -/
def yMajor (c : Half) : Bool := c.getLsbD 6
/-- `RADIAL`, bit 3. -/
def radial (c : Half) : Bool := c.getLsbD 3
/-- +1 or -1 as a coordinate step. -/
def unitStep (increase : Bool) : Half := if increase then 1#16 else 0xFFFF#16
/-- `xs`, from `INC_X`, bit 5 (30 R123). -/
def xStep (c : Half) : Half := unitStep (c.getLsbD 5)
/-- `ys`, from `INC_Y`, bit 7 (30 R123). -/
def yStep (c : Half) : Half := unitStep (c.getLsbD 7)

/-- The radial step (Δx, Δy) of direction `d = CMD[7:5]`; y grows downward (30 R123). -/
def radialStep (c : Half) : Half × Half :=
  match (c.extractLsb' 5 3).toNat with
  | 0 => (1#16, 0#16)
  | 1 => (1#16, 0xFFFF#16)
  | 2 => (0#16, 0xFFFF#16)
  | 3 => (0xFFFF#16, 0xFFFF#16)
  | 4 => (0xFFFF#16, 0#16)
  | 5 => (0xFFFF#16, 1#16)
  | 6 => (0#16, 1#16)
  | _ => (1#16, 1#16)

/-! ## Mix registers (30 R125) -/

/-- `SRC_SEL`, bits 6:5. -/
def srcSel (mix : Half) : BitVec 2 := mix.extractLsb' 5 2
/-- `MIX_CODE`, bits 3:0. -/
def mixCode (mix : Half) : BitVec 4 := mix.extractLsb' 0 4

/-! ## Pixels -/

/-- `PIXMASK` (00 R11). -/
def pixMask (pb : Nat) : Word := BitVec.ofNat 32 (2 ^ (8 * pb) - 1)

/-- The byte address of pixel `(X, Y)` (20 R74). -/
def pixAddr (p : Params) (x y : Half) : Nat :=
  ((y.toInt * (p.pitch : Int) + x.toInt) % ((p.vramBytes / p.pb : Nat) : Int)).toNat * p.pb

/-! ## Feed units -/

/-- The bytes of each 16-bit pair exchanged (44 R293). -/
def swapPairs : List Byte → List Byte
  | a :: b :: l => b :: a :: swapPairs l
  | l => l

/-- `SWAP(u)` (44 R293), one definition on purpose (93 U6). -/
def swapUnit (c : Half) (u : List Byte) : List Byte := if byteSwap c then swapPairs u else u

/-- The selector bits of a byte, most significant first (44 R292). -/
def monoBits (b : Byte) : List Item :=
  [.bit (b.getLsbD 7), .bit (b.getLsbD 6), .bit (b.getLsbD 5), .bit (b.getLsbD 4),
   .bit (b.getLsbD 3), .bit (b.getLsbD 2), .bit (b.getLsbD 1), .bit (b.getLsbD 0)]

/-- The pixels of a unit, little-endian (44 R292). -/
def colourPixels (pb : Nat) (u : List Byte) : List Item :=
  (List.range (u.length / pb)).map (fun j => .pix (gatherLE (fun i => u.getD (j * pb + i) 0#8) pb))

/-- `ITEMS(u)` (44 R292). -/
def feedItemsOf (feed : Feed) (pb : Nat) (u : List Byte) : List Item :=
  match feed with
  | .mono => u.flatMap monoBits
  | .colour => colourPixels pb u
  | .none => []

/-! ## Parameters -/

/-- A parameter set 00 R9 admits, the capacity apart. -/
def configOk (pb pitch vramBytes : Nat) : Bool :=
  (pb == 1 || pb == 2 || pb == 4) && (1 ≤ pitch && pitch ≤ 4096)
    && [65536, 131072, 262144, 524288, 1048576, 2097152, 4194304, 8388608, 16777216].contains vramBytes

end Sys2Proof.Machine
end

