-- ==== Sys2Proof/Machine/Flags.lean ====
section
/-! DEFINITION. The status bits and the gates: occupancy, full and GP_STAT (spec/10_state.md R47,
spec/45_status.md R351), the wake marks (spec/40_command_queue.md R151), the clip and compare gates
(spec/43_raster_alu.md R257, R258), and the predicates the holds wait for. The block has no condition
codes (10 R47). -/

namespace Sys2Proof.Machine

/-- The occupancy `n = q.wr - q.rd` (00 R14). -/
def State.occupancy (s : State) : Nat := s.queue.wr - s.queue.rd

/-- Full: `n = QCAP` (10 R47). -/
def State.full (s : State) : Bool := s.occupancy == s.params.qcap

/-- `HWM = QCAP - QCAP/8` (00 R9). -/
def hwm (p : Params) : Nat := p.qcap - p.qcap / 8

/-- Whether an enqueue that leaves occupancy `n` wakes the Consumer (40 R151). -/
def wakesAt (p : Params) (n : Nat) : Bool := hwm p < n || n < Config.lwm

/-- Whether the cursors would break `0 <= q.wr - q.rd <= QCAP` (40 R154). -/
def cursorsBad (p : Params) (rd wr : Nat) : Bool := wr < rd || p.qcap < wr - rd

/-- `GP_STAT` (45 R351; 30 R136). -/
def State.gpStat (s : State) : Half :=
  (if s.full then 0x00FF#16 else 0#16) ||| (if s.busy || 0 < s.occupancy then 0x0200#16 else 0#16)

/-- The clip gate: inclusive, signed coordinates against unsigned bounds (43 R257). -/
def Regs.inClip (r : Regs) (x y : Half) : Bool :=
  (r.scissorsL.toNat : Int) ≤ x.toInt && x.toInt ≤ (r.scissorsR.toNat : Int)
    && (r.scissorsT.toNat : Int) ≤ y.toInt && y.toInt ≤ (r.scissorsB.toNat : Int)

/-- The compare gate of a mode (43 R258). -/
def cmpPass (mode : BitVec 2) (pb : Nat) (colorCmp src : Word) : Bool :=
  match mode.toNat with
  | 0 => true
  | 1 => false
  | 2 => src != colorCmp &&& pixMask pb
  | _ => src == colorCmp &&& pixMask pb

/-- What a drained read waits for (45 R352). -/
def State.drained (s : State) : Bool := s.occupancy == 0 || s.stop

/-- What WAIT-IDLE waits for (45 R354). -/
def State.idleForHost (s : State) : Bool :=
  (s.occupancy == 0 && s.cstate != .draining) || s.cstate == .stopped || s.stop

end Sys2Proof.Machine
end

