-- ==== Sys2Proof/Machine/RasterAlu.lean ====
section
/-! DEFINITION. The Raster ALU and the per-pixel pipeline (spec/43_raster_alu.md), and the meanings of
the MIX, SRC, MIXSEL and CMP rows: one stage of the pipeline run alone on the pipeline's variables
(log 13). -/

namespace Sys2Proof.Machine

/-- MIX(code, S, D), the 16 two-input functions (43 R250). -/
def mixFn (code : BitVec 4) (s d : Word) : Word :=
  match code.toNat with
  | 0x0 => ~~~d
  | 0x1 => 0#32
  | 0x2 => ~~~0#32
  | 0x3 => d
  | 0x4 => ~~~s
  | 0x5 => s ^^^ d
  | 0x6 => ~~~(s ^^^ d)
  | 0x7 => s
  | 0x8 => ~~~(s &&& d)
  | 0x9 => ~~~s ||| d
  | 0xA => s ||| ~~~d
  | 0xB => s ||| d
  | 0xC => s &&& d
  | 0xD => s &&& ~~~d
  | 0xE => ~~~s &&& d
  | _ => ~~~(s ||| d)

/-- A feed item read as a selector bit; an item that is no bit reaches this only in a stage run alone
(log 23). -/
def Item.asBit : Item → Bool
  | .bit b => b
  | .pix _ => true
  | .none => true

/-- A feed item read as a pixel datum; an item that is no pixel reaches this only in a stage run alone
(log 23). -/
def Item.asPix : Item → Word
  | .pix v => v
  | .bit _ => 0#32
  | .none => 0#32

/-- A class that reads a framebuffer source: BitBlt and Pattern Fill (43 R254, R256). -/
def Cls.readsSource : Cls → Bool
  | .blit => true
  | .pat => true
  | .line => false
  | .rect => false

/-- SELECTOR(item, vsrc) of a mix select (43 R254). -/
def selector (ms : BitVec 2) (e : Ex) (item : Item) (vsrc : Word) : Bool :=
  match ms.toNat with
  | 2 => if e.feed = .mono then item.asBit else true
  | 3 => if e.cls.readsSource then vsrc != 0#32 else true
  | _ => true

/-- SOURCE(sel, item, vsrc), before the pixel mask (43 R256). -/
def source (sel : BitVec 2) (e : Ex) (r : Regs) (item : Item) (vsrc : Word) : Word :=
  match sel.toNat with
  | 0 => r.bkgdColor
  | 1 => r.frgdColor
  | 2 => if e.feed = .colour then item.asPix else 0#32
  | _ => if e.cls.readsSource then vsrc else 0#32

/-- SRCREAD(srcaddr) (43 R255). -/
def State.srcRead (s : State) : Option Nat → Word
  | none => 0#32
  | some a => s.memRead a &&& s.regs.rdMask &&& pixMask s.params.pb

/-- The write-mask merge (43 R260). -/
def maskMerge (pb : Nat) (mask r d : Word) : Word := ((r &&& mask) ||| (d &&& ~~~mask)) &&& pixMask pb

/-! ## Stages on the pipeline's variables -/

/-- The selector stage. -/
def State.selectorStage (s : State) (ms : BitVec 2) (p : Pipe) : Pipe :=
  { p with sel := selector ms s.ex p.item p.vsrc }

/-- The mix register the selector bit takes (43 R253, R259). -/
def State.takeMix (s : State) (p : Pipe) : Pipe :=
  { p with mix := if p.sel then s.regs.frgdMix else s.regs.bkgdMix }

/-- The source stage. -/
def State.sourceStage (s : State) (sel : BitVec 2) (p : Pipe) : Pipe :=
  { p with src := source sel s.ex s.regs p.item p.vsrc &&& pixMask s.params.pb }

/-- The compare stage. -/
def State.compareStage (s : State) (mode : BitVec 2) (p : Pipe) : Pipe :=
  { p with pass := cmpPass mode s.params.pb s.regs.colorCmp p.src }

/-- The mix stage (43 R259). -/
def State.mixStage (s : State) (code : BitVec 4) (p : Pipe) : Pipe :=
  { p with r := mixFn code p.src p.d &&& pixMask s.params.pb }

/-- The pipeline up to the source datum: source read, selector, mix register, source (43 R253). -/
def State.pipeFront (s : State) (item : Item) (srcaddr : Option Nat) : Pipe :=
  let p := { s.pipe with item := item, vsrc := s.srcRead srcaddr }
  let p := s.takeMix (s.selectorStage s.ex.ms p)
  s.sourceStage (srcSel p.mix) p

/-- The pipeline from the destination read to the merged output (43 R253). -/
def State.pipeBack (s : State) (a : Nat) (p : Pipe) : Pipe :=
  let p := s.mixStage (mixCode p.mix) { p with d := s.memRead a }
  { p with out := maskMerge s.params.pb s.regs.wrtMask p.r p.d }

/-- PIXEL(X, Y, item, srcaddr) (43 R253). -/
def State.pixel (s : State) (x y : Half) (item : Item) (srcaddr : Option Nat) : State :=
  let p := s.pipeFront item srcaddr
  if s.regs.inClip x y then
    let p := s.compareStage s.regs.cmpMode p
    if p.pass then
      let a := pixAddr s.params x y
      let p := s.pipeBack a p
      ((s.withPipe p).memWrite a p.out).markDirty a
    else s.withPipe p
  else s.withPipe p

/-! ## The stages run alone: the meanings of the MIX, SRC, MIXSEL and CMP rows -/

/-- The mix stage alone. -/
def runMix (code : BitVec 4) (s : State) : Result := .next (s.withPipe (s.mixStage code s.pipe))

/-- The source stage alone. -/
def runSrc (sel : BitVec 2) (s : State) : Result := .next (s.withPipe (s.sourceStage sel s.pipe))

/-- The selector stage alone. -/
def runMixSel (ms : BitVec 2) (s : State) : Result := .next (s.withPipe (s.selectorStage ms s.pipe))

/-- The compare stage alone. -/
def runCmp (mode : BitVec 2) (s : State) : Result := .next (s.withPipe (s.compareStage mode s.pipe))

/-- `MIX.NOT_D`: the Raster ALU computes `~D` (43 R250, code 0x0); bits 15:4 of the word have no part in it. -/
def execMixNotD (_hi : BitVec 12) (s : State) : Result := runMix 0#4 s

/-- `MIX.ZERO`: the Raster ALU computes `0` (43 R250, code 0x1); bits 15:4 of the word have no part in it. -/
def execMixZero (_hi : BitVec 12) (s : State) : Result := runMix 1#4 s

/-- `MIX.ONE`: the Raster ALU computes `~0` (43 R250, code 0x2); bits 15:4 of the word have no part in it. -/
def execMixOne (_hi : BitVec 12) (s : State) : Result := runMix 2#4 s

/-- `MIX.D`: the Raster ALU computes `D` (43 R250, code 0x3); bits 15:4 of the word have no part in it. -/
def execMixD (_hi : BitVec 12) (s : State) : Result := runMix 3#4 s

/-- `MIX.NOT_S`: the Raster ALU computes `~S` (43 R250, code 0x4); bits 15:4 of the word have no part in it. -/
def execMixNotS (_hi : BitVec 12) (s : State) : Result := runMix 4#4 s

/-- `MIX.S_XOR_D`: the Raster ALU computes `S ^ D` (43 R250, code 0x5); bits 15:4 of the word have no part in it. -/
def execMixSXorD (_hi : BitVec 12) (s : State) : Result := runMix 5#4 s

/-- `MIX.S_XNOR_D`: the Raster ALU computes `~(S ^ D)` (43 R250, code 0x6); bits 15:4 of the word have no part in it. -/
def execMixSXnorD (_hi : BitVec 12) (s : State) : Result := runMix 6#4 s

/-- `MIX.S`: the Raster ALU computes `S` (43 R250, code 0x7); bits 15:4 of the word have no part in it. -/
def execMixS (_hi : BitVec 12) (s : State) : Result := runMix 7#4 s

/-- `MIX.S_NAND_D`: the Raster ALU computes `~(S & D)` (43 R250, code 0x8); bits 15:4 of the word have no part in it. -/
def execMixSNandD (_hi : BitVec 12) (s : State) : Result := runMix 8#4 s

/-- `MIX.NOT_S_OR_D`: the Raster ALU computes `~S | D` (43 R250, code 0x9); bits 15:4 of the word have no part in it. -/
def execMixNotSOrD (_hi : BitVec 12) (s : State) : Result := runMix 9#4 s

/-- `MIX.S_OR_NOT_D`: the Raster ALU computes `S | ~D` (43 R250, code 0xA); bits 15:4 of the word have no part in it. -/
def execMixSOrNotD (_hi : BitVec 12) (s : State) : Result := runMix 10#4 s

/-- `MIX.S_OR_D`: the Raster ALU computes `S | D` (43 R250, code 0xB); bits 15:4 of the word have no part in it. -/
def execMixSOrD (_hi : BitVec 12) (s : State) : Result := runMix 11#4 s

/-- `MIX.S_AND_D`: the Raster ALU computes `S & D` (43 R250, code 0xC); bits 15:4 of the word have no part in it. -/
def execMixSAndD (_hi : BitVec 12) (s : State) : Result := runMix 12#4 s

/-- `MIX.S_AND_NOT_D`: the Raster ALU computes `S & ~D` (43 R250, code 0xD); bits 15:4 of the word have no part in it. -/
def execMixSAndNotD (_hi : BitVec 12) (s : State) : Result := runMix 13#4 s

/-- `MIX.NOT_S_AND_D`: the Raster ALU computes `~S & D` (43 R250, code 0xE); bits 15:4 of the word have no part in it. -/
def execMixNotSAndD (_hi : BitVec 12) (s : State) : Result := runMix 14#4 s

/-- `MIX.S_NOR_D`: the Raster ALU computes `~(S | D)` (43 R250, code 0xF); bits 15:4 of the word have no part in it. -/
def execMixSNorD (_hi : BitVec 12) (s : State) : Result := runMix 15#4 s

/-- `SRC.BKGD_COLOR`: the source datum is `BKGD_COLOR` (43 R256). -/
def execSrcBkgdColor (_hi : BitVec 9) (_lo : BitVec 5) (s : State) : Result := runSrc 0#2 s

/-- `SRC.FRGD_COLOR`: the source datum is `FRGD_COLOR` (43 R256). -/
def execSrcFrgdColor (_hi : BitVec 9) (_lo : BitVec 5) (s : State) : Result := runSrc 1#2 s

/-- `SRC.CPU_DATA`: the source datum is the CPU-fed item of a COLOUR feed, else 0 (43 R256). -/
def execSrcCpuData (_hi : BitVec 9) (_lo : BitVec 5) (s : State) : Result := runSrc 2#2 s

/-- `SRC.DISPLAY_MEMORY`: the source datum is the framebuffer source of BitBlt and Pattern Fill, else 0 (43 R256). -/
def execSrcDisplayMemory (_hi : BitVec 9) (_lo : BitVec 5) (s : State) : Result := runSrc 3#2 s

/-- `MIXSEL.ALWAYS_FG`: the selector bit is always 1 (43 R254). -/
def execMixselAlwaysFg (_hi : BitVec 4) (_lo : BitVec 6) (s : State) : Result := runMixSel 0#2 s

/-- `MIXSEL.RESERVED_AS_0`: the selector bit is always 1: the reserved value acts as 0 (43 R254). -/
def execMixselReservedAs0 (_hi : BitVec 4) (_lo : BitVec 6) (s : State) : Result := runMixSel 1#2 s

/-- `MIXSEL.CPU_DATA`: the selector bit is the feed item of a MONO feed, else 1 (43 R254). -/
def execMixselCpuData (_hi : BitVec 4) (_lo : BitVec 6) (s : State) : Result := runMixSel 2#2 s

/-- `MIXSEL.DISPLAY_MEMORY`: the selector bit is whether the source read is not 0 in BitBlt and Pattern Fill, else 1 (43 R254). -/
def execMixselDisplayMemory (_hi : BitVec 4) (_lo : BitVec 6) (s : State) : Result := runMixSel 3#2 s

/-- `CMP.ALWAYS`: the gate passes (43 R258). -/
def execCmpAlways (_hi : BitVec 3) (_lo : BitVec 7) (s : State) : Result := runCmp 0#2 s

/-- `CMP.NEVER`: the gate suppresses (43 R258). -/
def execCmpNever (_hi : BitVec 3) (_lo : BitVec 7) (s : State) : Result := runCmp 1#2 s

/-- `CMP.NE`: the gate passes a source other than `COLOR_CMP` (43 R258). -/
def execCmpNe (_hi : BitVec 3) (_lo : BitVec 7) (s : State) : Result := runCmp 2#2 s

/-- `CMP.EQ`: the gate passes a source equal to `COLOR_CMP` (43 R258). -/
def execCmpEq (_hi : BitVec 3) (_lo : BitVec 7) (s : State) : Result := runCmp 3#2 s

end Sys2Proof.Machine
end

