-- ==== Sys2Proof/Machine/Primitive.lean ====
section
/-! DEFINITION. The primitive engine (spec/44_primitives.md): command start, Line, Rectangle Fill,
BitBlt, Pattern Fill, CPU-fed execution; and the meanings of the CMD rows. -/

namespace Sys2Proof.Machine

/-- What a STEP returns (44 R287). -/
inductive Event where
  | cont
  | rowEnd
  | done
deriving DecidableEq, Repr

/-! ## Stepping the geometry -/

/-- STEP-BRESENHAM (44 R302). -/
def stepBresenham (e : Ex) : Ex :=
  let major (e : Ex) : Ex :=
    if yMajor e.cmd then { e with y := e.y + yStep e.cmd } else { e with x := e.x + xStep e.cmd }
  let minor (e : Ex) : Ex :=
    if yMajor e.cmd then { e with x := e.x + xStep e.cmd } else { e with y := e.y + yStep e.cmd }
  if (e.maj.toNat : Int) ≤ e.err.toInt then major (minor { e with err := e.err + e.dia })
  else major { e with err := e.err + e.ax }

/-- STEP-RADIAL (44 R303). -/
def stepRadial (e : Ex) : Ex :=
  { e with x := e.x + (radialStep e.cmd).1, y := e.y + (radialStep e.cmd).2 }

/-- The step of a Line after its pixel (44 R301). -/
def advanceLine (e : Ex) : Ex × Event :=
  let e := if radial e.cmd then stepRadial e else stepBresenham e
  let e := { e with left := e.left - 1 }
  (e, if e.left = 0 then .done else .cont)

/-- The step of a Rectangle Fill after its pixel (44 R311). -/
def advanceRect (e : Ex) : Ex × Event :=
  let e := { e with x := e.x + xStep e.cmd, left := e.left - 1 }
  if 0 < e.left then (e, .cont)
  else
    let e := { e with x := e.x0, y := e.y + yStep e.cmd, left := e.w.toNat, rows := e.rows - 1 }
    (e, if e.rows < 0 then .done else .rowEnd)

/-- The step of a BitBlt after its pixel (44 R321). -/
def advanceBlit (e : Ex) : Ex × Event :=
  let e := { e with x := e.x + xStep e.cmd, sx := e.sx + xStep e.cmd, left := e.left - 1 }
  if 0 < e.left then (e, .cont)
  else
    let e := { e with
      x := e.x0, sx := e.sx0, y := e.y + yStep e.cmd, sy := e.sy + yStep e.cmd,
      left := e.w.toNat, rows := e.rows - 1 }
    (e, if e.rows < 0 then .done else .rowEnd)

/-- The step of a Pattern Fill after its pixel; phases move modulo 8 (44 R331). -/
def advancePat (e : Ex) : Ex × Event :=
  let e := { e with
    x := e.x + xStep e.cmd, px := e.px + (xStep e.cmd).setWidth 3, left := e.left - 1 }
  if 0 < e.left then (e, .cont)
  else
    let e := { e with
      x := e.x0, px := e.px0, y := e.y + yStep e.cmd, py := e.py + (yStep e.cmd).setWidth 3,
      left := e.w.toNat, rows := e.rows - 1 }
    (e, if e.rows < 0 then .done else .rowEnd)

/-- The step of the running class. No pixel's outcome enters it (43 R264). -/
def advance (e : Ex) : Ex × Event :=
  match e.cls with
  | .line => advanceLine e
  | .rect => advanceRect e
  | .blit => advanceBlit e
  | .pat => advancePat e

/-- The framebuffer address of the source pixel (44 R301, R311, R321, R331). -/
def sourceAddr (p : Params) (e : Ex) : Option Nat :=
  match e.cls with
  | .line => none
  | .rect => none
  | .blit => some (pixAddr p e.sx e.sy)
  | .pat => some (pixAddr p (e.tx + e.px.setWidth 16) (e.ty + e.py.setWidth 16))

/-- STEP(item): the pixel at the current position, then the step (44 R301, R311, R321, R331). -/
def engineStep (item : Item) (s : State) : State × Event :=
  let next := advance s.ex
  ((s.pixel s.ex.x s.ex.y item (sourceAddr s.params s.ex)).withEx next.1, next.2)

/-! ## Running -/

/-- WRITEBACK (44 R295). -/
def writebackRegs (e : Ex) (r : Regs) : Regs :=
  match e.cls with
  | .line => { r with curX := e.x, curY := e.y, errTerm := e.err }
  | .rect => { r with curX := e.x, curY := e.y }
  | .blit => { r with curX := e.sx, curY := e.sy, destxDiastp := e.x, destyAxstp := e.y }
  | .pat => { r with destxDiastp := e.x, destyAxstp := e.y }

/-- WRITEBACK on the state (44 R295). -/
def State.writeback (s : State) : State := s.withRegs (writebackRegs s.ex s.regs)

/-- FINISH: WRITEBACK, then not active (44 R296). -/
def State.finish (s : State) : State := s.writeback.withEx { s.ex with active := false }

/-- At most `n` STEPs without feed, stopping at DONE (44 R285). -/
def runSteps : Nat → State → State
  | 0, s => s
  | n + 1, s =>
    match engineStep .none s with
    | (s', .done) => s'
    | (s', _) => runSteps n s'

/-- RUN (44 R285): the primitive visits EXTENT pixels (R283), so it takes `extent` STEPs. -/
def State.runPrimitive (s : State) (extent : Nat) : State := (runSteps extent s).finish

/-- The items of a unit in order; a row end or the end discards the rest (44 R294). -/
def feedItems : List Item → State → State
  | [], s => s.writeback
  | item :: rest, s =>
    match engineStep item s with
    | (s', .done) => s'.finish
    | (s', .rowEnd) => s'.writeback
    | (s', .cont) => feedItems rest s'

/-- FEED-UNIT(unit) (44 R294). -/
def State.feedUnit (s : State) (unit : List Byte) : State :=
  feedItems (feedItemsOf s.ex.feed s.params.pb (swapUnit s.ex.cmd unit)) s

/-! ## Starting a command -/

/-- ABANDON (44 R281). -/
def State.abandon (s : State) : State :=
  (s.withEx { s.ex with active := false }).withRegs { s.regs with stageCnt := 0 }

/-- SETUP-FEED(c) (44 R291). -/
def setupFeed (pb : Nat) (c : Half) (e : Ex) : Ex :=
  if pcData c then
    if e.ms = 2#2 then { e with feed := .mono, u := busBytes c }
    else { e with feed := .colour, u := max (busBytes c) pb }
  else { e with feed := .none, u := busBytes c }

/-- SETUP(class) (44 R300, R310, R320, R330). -/
def setupClass (r : Regs) (e : Ex) : Ex :=
  match e.cls with
  | .line => { e with
      x := r.curX, y := r.curY, err := r.errTerm, maj := r.majAxisPcnt,
      ax := r.destyAxstp, dia := r.destxDiastp, left := r.majAxisPcnt.toNat }
  | .rect => { e with
      x := r.curX, y := r.curY, x0 := r.curX,
      w := r.majAxisPcnt, left := r.majAxisPcnt.toNat, rows := (r.minAxisPcnt.toNat : Int) - 1 }
  | .blit => { e with
      sx := r.curX, sy := r.curY, sx0 := r.curX,
      x := r.destxDiastp, y := r.destyAxstp, x0 := r.destxDiastp,
      w := r.majAxisPcnt, left := r.majAxisPcnt.toNat, rows := (r.minAxisPcnt.toNat : Int) - 1 }
  | .pat => { e with
      tx := r.curX &&& 0xFFF8#16, ty := r.curY &&& 0xFFF8#16,
      px := r.curX.setWidth 3, py := r.curY.setWidth 3, px0 := r.curX.setWidth 3,
      x := r.destxDiastp, y := r.destyAxstp, x0 := r.destxDiastp,
      w := r.majAxisPcnt, left := r.majAxisPcnt.toNat, rows := (r.minAxisPcnt.toNat : Int) - 1 }

/-- EXTENT (44 R283). -/
def extentOf (cls : Cls) (r : Regs) : Nat :=
  match cls with
  | .line => r.majAxisPcnt.toNat
  | .rect => r.majAxisPcnt.toNat * r.minAxisPcnt.toNat
  | .blit => r.majAxisPcnt.toNat * r.minAxisPcnt.toNat
  | .pat => r.majAxisPcnt.toNat * r.minAxisPcnt.toNat

/-- `wrap16(v + ys * h)` (44 R284, R288). -/
def restY (c : Half) (v : Half) (h : Slot12) : Half := v + yStep c * h.setWidth 16

/-- ZERO-EXTENT: the resting values of 44 R304, R312, R322, R332 for this `h` (44 R284). -/
def zeroExtentRegs (e : Ex) (r : Regs) : Regs :=
  match e.cls with
  | .line => r
  | .rect => { r with curY := restY e.cmd r.curY r.minAxisPcnt }
  | .blit => { r with
      curY := restY e.cmd r.curY r.minAxisPcnt, destyAxstp := restY e.cmd r.destyAxstp r.minAxisPcnt }
  | .pat => { r with destyAxstp := restY e.cmd r.destyAxstp r.minAxisPcnt }

/-- The execution state a started primitive begins with (44 R280). -/
def startEx (p : Params) (r : Regs) (e : Ex) (cls : Cls) (c : Half) : Ex :=
  setupClass r (setupFeed p.pb c { e with cls := cls, cmd := c, ms := r.mixSel })

/-- START's first two lines: a waiting primitive is abandoned, the stage emptied (44 R280, R281). -/
def State.clearWaiting (s : State) : State :=
  let s := if s.ex.active then s.abandon else s
  s.withRegs { s.regs with stageCnt := 0 }

/-- START(c) (44 R280). -/
def State.start (s : State) (c : Half) : State :=
  let s := s.clearWaiting
  match classOf c with
  | none => s
  | some cls =>
    let s := s.withEx (startEx s.params s.regs s.ex cls c)
    if extentOf cls s.regs = 0 then s.withRegs (zeroExtentRegs s.ex s.regs)
    else if s.ex.feed = .none then s.runPrimitive (extentOf cls s.regs)
    else s.withEx { s.ex with active := true }

/-- The commit of a whole command word: the latch takes it and START runs (42 R210; log 21). -/
def State.commitCmd (s : State) (c : Half) : State := (s.withRegs { s.regs with cmd := c }).start c

/-! ## The CMD rows -/

/-- `CMD.NOP`: class 0, abandons and does nothing else (44 R282). -/
def execCmdNop (lo : BitVec 13) (s : State) : Result := .next (s.commitCmd (cmdWord 0#3 lo))

/-- `CMD.LINE`: a Line, Bresenham or radial by its bit 3 (44 R300 to R304). -/
def execCmdLine (lo : BitVec 13) (s : State) : Result := .next (s.commitCmd (cmdWord 1#3 lo))

/-- `CMD.RECT`: a Rectangle Fill (44 R310 to R313). -/
def execCmdRect (lo : BitVec 13) (s : State) : Result := .next (s.commitCmd (cmdWord 2#3 lo))

/-- `CMD.RSV3`: reserved class 3, a no-op after the abandon (44 R282). -/
def execCmdRsv3 (lo : BitVec 13) (s : State) : Result := .next (s.commitCmd (cmdWord 3#3 lo))

/-- `CMD.RSV4`: reserved class 4, a no-op after the abandon (44 R282). -/
def execCmdRsv4 (lo : BitVec 13) (s : State) : Result := .next (s.commitCmd (cmdWord 4#3 lo))

/-- `CMD.RSV5`: reserved class 5, a no-op after the abandon (44 R282). -/
def execCmdRsv5 (lo : BitVec 13) (s : State) : Result := .next (s.commitCmd (cmdWord 5#3 lo))

/-- `CMD.BLIT`: a BitBlt (44 R320 to R324). -/
def execCmdBlit (lo : BitVec 13) (s : State) : Result := .next (s.commitCmd (cmdWord 6#3 lo))

/-- `CMD.PAT`: a Pattern Fill (44 R330 to R333). -/
def execCmdPat (lo : BitVec 13) (s : State) : Result := .next (s.commitCmd (cmdWord 7#3 lo))

/-- `CMD.LINE.BRESENHAM`: a Line whose steps are STEP-BRESENHAM (44 R301, R302). -/
def execCmdLineBresenham (hi : BitVec 9) (lo : BitVec 3) (s : State) : Result :=
  .next (s.commitCmd (lineWord hi 0#1 lo))

/-- `CMD.LINE.RADIAL`: a Line whose steps are STEP-RADIAL (44 R301, R303). -/
def execCmdLineRadial (hi : BitVec 9) (lo : BitVec 3) (s : State) : Result :=
  .next (s.commitCmd (lineWord hi 1#1 lo))

end Sys2Proof.Machine
end

