-- ==== Sys2Proof/Machine/RegFile.lean ====
section
/-! DEFINITION. The register file's handlers (spec/42_register_file.md): one byte write per register,
the multifunction commit, the pixel-transfer byte, BYTE-WRITE and READ-BYTE; and the meanings of the W
and MF rows. -/

namespace Sys2Proof.Machine

/-! ## Byte writes of registers (42 R203 to R217) -/

/-- Write CUR_Y (42 R204). -/
def State.writeCurY (s : State) (lane : BitVec 2) (b : Byte) : State :=
  if unusedLane lane then s
  else s.withRegs { s.regs with curY := zext12 (mergeByte s.regs.curY lane b) }

/-- Write CUR_X (42 R205). -/
def State.writeCurX (s : State) (lane : BitVec 2) (b : Byte) : State :=
  if unusedLane lane then s
  else s.withRegs { s.regs with curX := zext12 (mergeByte s.regs.curX lane b) }

/-- Write DESTY_AXSTP (42 R206). -/
def State.writeDestyAxstp (s : State) (lane : BitVec 2) (b : Byte) : State :=
  if unusedLane lane then s
  else s.withRegs { s.regs with destyAxstp := sext14 (mergeByte s.regs.destyAxstp lane b) }

/-- Write DESTX_DIASTP (42 R207). -/
def State.writeDestxDiastp (s : State) (lane : BitVec 2) (b : Byte) : State :=
  if unusedLane lane then s
  else s.withRegs { s.regs with destxDiastp := sext14 (mergeByte s.regs.destxDiastp lane b) }

/-- Write ERR_TERM (42 R208). -/
def State.writeErrTerm (s : State) (lane : BitVec 2) (b : Byte) : State :=
  if unusedLane lane then s
  else s.withRegs { s.regs with errTerm := sext14 (mergeByte s.regs.errTerm lane b) }

/-- Write MAJ_AXIS_PCNT (42 R209). -/
def State.writeMajAxisPcnt (s : State) (lane : BitVec 2) (b : Byte) : State :=
  if unusedLane lane then s
  else s.withRegs { s.regs with majAxisPcnt := (mergeByte (s.regs.majAxisPcnt.setWidth 16) lane b).setWidth 12 }

/-- Write CMD: lane 0 latches, lane 1 commits and starts, lanes 2 and 3 are unused (42 R210). -/
def State.writeCmd (s : State) (lane : BitVec 2) (b : Byte) : State :=
  match lane.toNat with
  | 0 => s.withRegs { s.regs with cmd := mergeByte s.regs.cmd 0#2 b }
  | 1 => s.commitCmd (mergeByte s.regs.cmd 1#2 b)
  | _ => s

/-- Write SHORT_STROKE: storage only, nothing is drawn (42 R211, R218). -/
def State.writeShortStroke (s : State) (lane : BitVec 2) (b : Byte) : State :=
  if unusedLane lane then s
  else s.withRegs { s.regs with shortStroke := mergeByte s.regs.shortStroke lane b }

/-- Write BKGD_COLOR (42 R212). -/
def State.writeBkgdColor (s : State) (lane : BitVec 2) (b : Byte) : State :=
  s.withRegs { s.regs with bkgdColor := mergeByte s.regs.bkgdColor lane b }

/-- Write FRGD_COLOR (42 R213). -/
def State.writeFrgdColor (s : State) (lane : BitVec 2) (b : Byte) : State :=
  s.withRegs { s.regs with frgdColor := mergeByte s.regs.frgdColor lane b }

/-- Write WRT_MASK (42 R214). -/
def State.writeWrtMask (s : State) (lane : BitVec 2) (b : Byte) : State :=
  s.withRegs { s.regs with wrtMask := mergeByte s.regs.wrtMask lane b }

/-- Write RD_MASK (42 R215). -/
def State.writeRdMask (s : State) (lane : BitVec 2) (b : Byte) : State :=
  s.withRegs { s.regs with rdMask := mergeByte s.regs.rdMask lane b }

/-- Write COLOR_CMP (42 R216). -/
def State.writeColorCmp (s : State) (lane : BitVec 2) (b : Byte) : State :=
  s.withRegs { s.regs with colorCmp := mergeByte s.regs.colorCmp lane b }

/-- Write BKGD_MIX (42 R217). -/
def State.writeBkgdMix (s : State) (lane : BitVec 2) (b : Byte) : State :=
  if unusedLane lane then s
  else s.withRegs { s.regs with bkgdMix := mergeByte s.regs.bkgdMix lane b }

/-- Write FRGD_MIX (42 R217). -/
def State.writeFrgdMix (s : State) (lane : BitVec 2) (b : Byte) : State :=
  if unusedLane lane then s
  else s.withRegs { s.regs with frgdMix := mergeByte s.regs.frgdMix lane b }

/-! ## Multifunction bank (42 R220 to R222) -/

/-- COMMIT of a word: the latch holds it and its slot takes its data (42 R222; 30 R130). -/
def State.commitMf (s : State) (v : Half) : State :=
  s.withRegs ({ s.regs with mfLatch := v }.setMf (v.extractLsb' 12 4) (v.extractLsb' 0 12))

/-- Write MULTIFUNC_CNTL: lanes 0 and 2 latch the low byte, lanes 1 and 3 the high byte and commit
(42 R220). -/
def State.writeMultifunc (s : State) (lane : BitVec 2) (b : Byte) : State :=
  match lane.toNat with
  | 0 => s.withRegs { s.regs with mfLatch := mergeByte s.regs.mfLatch 0#2 b }
  | 1 => s.commitMf (mergeByte s.regs.mfLatch 1#2 b)
  | 2 => s.withRegs { s.regs with mfLatch := mergeByte s.regs.mfLatch 0#2 b }
  | _ => s.commitMf (mergeByte s.regs.mfLatch 1#2 b)

/-! ## Pixel transfer (42 R230, R231) -/

/-- Write PIX_TRANS: the lane has no part in it (42 R230). -/
def State.writePixel (s : State) (b : Byte) : State :=
  if s.ex.active then
    let stage := s.regs.stage.setIfInBounds s.regs.stageCnt b
    let cnt := s.regs.stageCnt + 1
    if cnt = s.ex.u then
      (s.withRegs { s.regs with stage := stage, stageCnt := 0 }).feedUnit (stage.toList.take s.ex.u)
    else s.withRegs { s.regs with stage := stage, stageCnt := cnt }
  else s.withRegs { s.regs with stageCnt := 0 }

/-! ## Dispatch -/

/-- BYTE-WRITE(t, b) (42 R200, R201). -/
def State.byteWrite (s : State) (t : Target) (b : Byte) : State :=
  match t with
  | .reg .curY lane => s.writeCurY lane b
  | .reg .curX lane => s.writeCurX lane b
  | .reg .destyAxstp lane => s.writeDestyAxstp lane b
  | .reg .destxDiastp lane => s.writeDestxDiastp lane b
  | .reg .errTerm lane => s.writeErrTerm lane b
  | .reg .majAxisPcnt lane => s.writeMajAxisPcnt lane b
  | .reg .cmd lane => s.writeCmd lane b
  | .reg .shortStroke lane => s.writeShortStroke lane b
  | .reg .bkgdColor lane => s.writeBkgdColor lane b
  | .reg .frgdColor lane => s.writeFrgdColor lane b
  | .reg .wrtMask lane => s.writeWrtMask lane b
  | .reg .rdMask lane => s.writeRdMask lane b
  | .reg .colorCmp lane => s.writeColorCmp lane b
  | .reg .bkgdMix lane => s.writeBkgdMix lane b
  | .reg .frgdMix lane => s.writeFrgdMix lane b
  | .reg .multifunc lane => s.writeMultifunc lane b
  | .pixel _ => s.writePixel b
  | .none => s

/-- The value the bytes of a register's slot are read from: its storage bits, zero above its width, so
that an unused lane reads 0x00; GP_STAT for the CMD slot; `{sel, mf[sel]}` for the multifunction slot
(42 R240 to R242). -/
def State.regBits (s : State) (r : RegName) : Word :=
  match r with
  | .curY => s.regs.curY.setWidth 32
  | .curX => s.regs.curX.setWidth 32
  | .destyAxstp => s.regs.destyAxstp.setWidth 32
  | .destxDiastp => s.regs.destxDiastp.setWidth 32
  | .errTerm => s.regs.errTerm.setWidth 32
  | .majAxisPcnt => s.regs.majAxisPcnt.setWidth 32
  | .cmd => s.gpStat.setWidth 32
  | .shortStroke => s.regs.shortStroke.setWidth 32
  | .bkgdColor => s.regs.bkgdColor
  | .frgdColor => s.regs.frgdColor
  | .wrtMask => s.regs.wrtMask
  | .rdMask => s.regs.rdMask
  | .colorCmp => s.regs.colorCmp
  | .bkgdMix => s.regs.bkgdMix.setWidth 32
  | .frgdMix => s.regs.frgdMix.setWidth 32
  | .multifunc => (s.regs.readSel ++ s.regs.mfAt s.regs.readSel).setWidth 32

/-- READ-BYTE(t) (42 R240). -/
def State.readByte (s : State) (t : Target) : Byte :=
  match t with
  | .reg r lane => byteOf (s.regBits r) lane.toNat
  | .pixel _ => 0xFF#8
  | .none => 0xFF#8

/-- The bytes of an entry or access, applied in ascending order (41 R182, 42 R202). -/
def State.writeBytes (s : State) (l : List (ByteAddr × Byte)) : State :=
  l.foldl (fun s c => s.byteWrite (decodeAddr c.1) c.2) s

/-- The addressed bytes of a value (30 R114). -/
def bytesOf (sp : BusSpace) (w : Width) (off : BitVec 24) (v : Word) : List (ByteAddr × Byte) :=
  w.lanes.map (fun i => (byteAddrAt sp off i, byteOf v i))

/-! ## The W rows -/

/-- `W.CUR_Y`: BYTE-WRITE of a lane of the register. Both spaces reach the same lane (30 R113). -/
def execWCurY (_sp : BusSpace) (lane : BitVec 2) (b : Byte) (s : State) : Result :=
  .next (s.writeCurY lane b)

/-- `W.CUR_X`: BYTE-WRITE of a lane of the register. Both spaces reach the same lane (30 R113). -/
def execWCurX (_sp : BusSpace) (lane : BitVec 2) (b : Byte) (s : State) : Result :=
  .next (s.writeCurX lane b)

/-- `W.DESTY_AXSTP`: BYTE-WRITE of a lane of the register. Both spaces reach the same lane (30 R113). -/
def execWDestyAxstp (_sp : BusSpace) (lane : BitVec 2) (b : Byte) (s : State) : Result :=
  .next (s.writeDestyAxstp lane b)

/-- `W.DESTX_DIASTP`: BYTE-WRITE of a lane of the register. Both spaces reach the same lane (30 R113). -/
def execWDestxDiastp (_sp : BusSpace) (lane : BitVec 2) (b : Byte) (s : State) : Result :=
  .next (s.writeDestxDiastp lane b)

/-- `W.ERR_TERM`: BYTE-WRITE of a lane of the register. Both spaces reach the same lane (30 R113). -/
def execWErrTerm (_sp : BusSpace) (lane : BitVec 2) (b : Byte) (s : State) : Result :=
  .next (s.writeErrTerm lane b)

/-- `W.MAJ_AXIS_PCNT`: BYTE-WRITE of a lane of the register. Both spaces reach the same lane (30 R113). -/
def execWMajAxisPcnt (_sp : BusSpace) (lane : BitVec 2) (b : Byte) (s : State) : Result :=
  .next (s.writeMajAxisPcnt lane b)

/-- `W.CMD`: BYTE-WRITE of a lane of the register. Both spaces reach the same lane (30 R113). -/
def execWCmd (_sp : BusSpace) (lane : BitVec 2) (b : Byte) (s : State) : Result :=
  .next (s.writeCmd lane b)

/-- `W.SHORT_STROKE`: BYTE-WRITE of a lane of the register. Both spaces reach the same lane (30 R113). -/
def execWShortStroke (_sp : BusSpace) (lane : BitVec 2) (b : Byte) (s : State) : Result :=
  .next (s.writeShortStroke lane b)

/-- `W.BKGD_COLOR`: BYTE-WRITE of a lane of the register. Both spaces reach the same lane (30 R113). -/
def execWBkgdColor (_sp : BusSpace) (lane : BitVec 2) (b : Byte) (s : State) : Result :=
  .next (s.writeBkgdColor lane b)

/-- `W.FRGD_COLOR`: BYTE-WRITE of a lane of the register. Both spaces reach the same lane (30 R113). -/
def execWFrgdColor (_sp : BusSpace) (lane : BitVec 2) (b : Byte) (s : State) : Result :=
  .next (s.writeFrgdColor lane b)

/-- `W.WRT_MASK`: BYTE-WRITE of a lane of the register. Both spaces reach the same lane (30 R113). -/
def execWWrtMask (_sp : BusSpace) (lane : BitVec 2) (b : Byte) (s : State) : Result :=
  .next (s.writeWrtMask lane b)

/-- `W.RD_MASK`: BYTE-WRITE of a lane of the register. Both spaces reach the same lane (30 R113). -/
def execWRdMask (_sp : BusSpace) (lane : BitVec 2) (b : Byte) (s : State) : Result :=
  .next (s.writeRdMask lane b)

/-- `W.COLOR_CMP`: BYTE-WRITE of a lane of the register. Both spaces reach the same lane (30 R113). -/
def execWColorCmp (_sp : BusSpace) (lane : BitVec 2) (b : Byte) (s : State) : Result :=
  .next (s.writeColorCmp lane b)

/-- `W.BKGD_MIX`: BYTE-WRITE of a lane of the register. Both spaces reach the same lane (30 R113). -/
def execWBkgdMix (_sp : BusSpace) (lane : BitVec 2) (b : Byte) (s : State) : Result :=
  .next (s.writeBkgdMix lane b)

/-- `W.FRGD_MIX`: BYTE-WRITE of a lane of the register. Both spaces reach the same lane (30 R113). -/
def execWFrgdMix (_sp : BusSpace) (lane : BitVec 2) (b : Byte) (s : State) : Result :=
  .next (s.writeFrgdMix lane b)

/-- `W.MULTIFUNC_CNTL`: BYTE-WRITE of a lane of the register. Both spaces reach the same lane (30 R113). -/
def execWMultifuncCntl (_sp : BusSpace) (lane : BitVec 2) (b : Byte) (s : State) : Result :=
  .next (s.writeMultifunc lane b)

/-- `W.PIX_TRANS` (42 R230). -/
def execWPixTrans (_sp : BusSpace) (_lane : BitVec 2) (b : Byte) (s : State) : Result :=
  .next (s.writePixel b)

/-- `W.PIX_TRANS.WINDOW`: the mapped window below 0x8000 (30 R113, 42 R230). -/
def execWPixTransWindow (_o : BitVec 15) (b : Byte) (s : State) : Result := .next (s.writePixel b)

/-- `W.NONE`: the byte goes where its address decodes; a NONE byte changes no state (42 R200). -/
def execWNone (a : ByteAddr) (b : Byte) (s : State) : Result := .next (s.byteWrite (decodeAddr a) b)

/-! ## The MF rows -/

/-- `MF.MIN_AXIS_PCNT`: COMMIT of a word with INDEX 0X0 (42 R222). -/
def execMfMinAxisPcnt (data : Slot12) (s : State) : Result := .next (s.commitMf (0#4 ++ data))

/-- `MF.SCISSORS_T`: COMMIT of a word with INDEX 0X1 (42 R222). -/
def execMfScissorsT (data : Slot12) (s : State) : Result := .next (s.commitMf (1#4 ++ data))

/-- `MF.SCISSORS_L`: COMMIT of a word with INDEX 0X2 (42 R222). -/
def execMfScissorsL (data : Slot12) (s : State) : Result := .next (s.commitMf (2#4 ++ data))

/-- `MF.SCISSORS_B`: COMMIT of a word with INDEX 0X3 (42 R222). -/
def execMfScissorsB (data : Slot12) (s : State) : Result := .next (s.commitMf (3#4 ++ data))

/-- `MF.SCISSORS_R`: COMMIT of a word with INDEX 0X4 (42 R222). -/
def execMfScissorsR (data : Slot12) (s : State) : Result := .next (s.commitMf (4#4 ++ data))

/-- `MF.SLOT5`: COMMIT of a word with INDEX 0X5 (42 R222). -/
def execMfSlot5 (data : Slot12) (s : State) : Result := .next (s.commitMf (5#4 ++ data))

/-- `MF.SLOT6`: COMMIT of a word with INDEX 0X6 (42 R222). -/
def execMfSlot6 (data : Slot12) (s : State) : Result := .next (s.commitMf (6#4 ++ data))

/-- `MF.SLOT7`: COMMIT of a word with INDEX 0X7 (42 R222). -/
def execMfSlot7 (data : Slot12) (s : State) : Result := .next (s.commitMf (7#4 ++ data))

/-- `MF.SLOT8`: COMMIT of a word with INDEX 0X8 (42 R222). -/
def execMfSlot8 (data : Slot12) (s : State) : Result := .next (s.commitMf (8#4 ++ data))

/-- `MF.SLOT9`: COMMIT of a word with INDEX 0X9 (42 R222). -/
def execMfSlot9 (data : Slot12) (s : State) : Result := .next (s.commitMf (9#4 ++ data))

/-- `MF.PIX_CNTL`: COMMIT of a word with INDEX 0XA (42 R222). -/
def execMfPixCntl (data : Slot12) (s : State) : Result := .next (s.commitMf (10#4 ++ data))

/-- `MF.SLOTB`: COMMIT of a word with INDEX 0XB (42 R222). -/
def execMfSlotb (data : Slot12) (s : State) : Result := .next (s.commitMf (11#4 ++ data))

/-- `MF.SLOTC`: COMMIT of a word with INDEX 0XC (42 R222). -/
def execMfSlotc (data : Slot12) (s : State) : Result := .next (s.commitMf (12#4 ++ data))

/-- `MF.SLOTD`: COMMIT of a word with INDEX 0XD (42 R222). -/
def execMfSlotd (data : Slot12) (s : State) : Result := .next (s.commitMf (13#4 ++ data))

/-- `MF.MULT_MISC`: COMMIT of a word with INDEX 0XE (42 R222). -/
def execMfMultMisc (data : Slot12) (s : State) : Result := .next (s.commitMf (14#4 ++ data))

/-- `MF.READ_SEL`: COMMIT of a word with INDEX 0XF (42 R222). -/
def execMfReadSel (data : Slot12) (s : State) : Result := .next (s.commitMf (15#4 ++ data))

end Sys2Proof.Machine
end

