-- ==== Sys2Proof/Machine/Consumer.lean ====
section
/-! DEFINITION. EXECUTE of a queue entry (spec/41_producer_consumer.md R182), the meanings of the ENTRY
rows, and the Consumer's steps (spec/41_producer_consumer.md R180 to R185, spec/40_command_queue.md
R153). A Consumer step that is not enabled leaves the state as it is (log 4). -/

namespace Sys2Proof.Machine

/-! ## EXECUTE -/

/-- EXECUTE of an entry of a space and width: its bytes in ascending order (41 R182). Payload bits at
and above `8 * width` are ignored (30 R102). -/
def State.executeEntry (s : State) (sp : BusSpace) (w : Width) (off : BitVec 24) (payload : Word) :
    State :=
  s.writeBytes (bytesOf sp w off payload)

/-- EXECUTE(e) of a packed entry: any other type code is a no-op (41 R182, 30 R140). -/
def State.executeWord (s : State) (e : EntryWord) : State :=
  match kindOf (entryType e) with
  | some (sp, w) => s.executeEntry sp w (entryOffset e) (entryPayload e)
  | none => s

/-- `ENTRY.INVALID`: the empty slot marker; executed, a no-op (30 R101, 41 R182). -/
def execEntryInvalid (_off : BitVec 24) (_payload : Word) (s : State) : Result := .next s

/-- `ENTRY.WRITE_BYTE` (41 R182). -/
def execEntryWriteByte (off : BitVec 24) (payload : Word) (s : State) : Result :=
  .next (s.executeEntry .mapped .w1 off payload)

/-- `ENTRY.WRITE_WORD` (41 R182). -/
def execEntryWriteWord (off : BitVec 24) (payload : Word) (s : State) : Result :=
  .next (s.executeEntry .mapped .w2 off payload)

/-- `ENTRY.WRITE_DWORD` (41 R182). -/
def execEntryWriteDword (off : BitVec 24) (payload : Word) (s : State) : Result :=
  .next (s.executeEntry .mapped .w4 off payload)

/-- `ENTRY.OUT_BYTE` (41 R182). -/
def execEntryOutByte (off : BitVec 24) (payload : Word) (s : State) : Result :=
  .next (s.executeEntry .port .w1 off payload)

/-- `ENTRY.OUT_WORD` (41 R182). -/
def execEntryOutWord (off : BitVec 24) (payload : Word) (s : State) : Result :=
  .next (s.executeEntry .port .w2 off payload)

/-- `ENTRY.OUT_DWORD` (41 R182). -/
def execEntryOutDword (off : BitVec 24) (payload : Word) (s : State) : Result :=
  .next (s.executeEntry .port .w4 off payload)

/-! ## The Consumer's steps -/

/-- WAKE's condition (41 R180). -/
def State.wakeEnabled (s : State) : Bool := s.cstate == .idle && s.wakePending && !s.stop

/-- STOP's condition (41 R184). -/
def State.stopEnabled (s : State) : Bool := s.cstate == .idle && s.wakePending && s.stop

/-- DEQUEUE-EXECUTE's condition: Draining and not empty (40 R153; 10 R32: empty iff the cursors are
equal). -/
def State.dequeueEnabled (s : State) : Bool := s.cstate == .draining && s.queue.wr != s.queue.rd

/-- EMPTY's condition: Draining and empty (41 R183). -/
def State.emptyEnabled (s : State) : Bool := s.cstate == .draining && s.queue.wr == s.queue.rd

/-- `WAKE` (41 R180). -/
def execWake (s : State) : Result :=
  if s.wakeEnabled then .next ((s.withWake false).withConsumer .draining true) else .next s

/-- `STOP` (41 R184). `busy` is 0 already in Idle (10 R35). -/
def execStop (s : State) : Result :=
  if s.stopEnabled then .next ((s.withWake false).withConsumer .stopped s.busy) else .next s

/-- `EMPTY` (41 R183). -/
def execEmpty (s : State) : Result :=
  if s.emptyEnabled then .next (s.withConsumer .idle false) else .next s

/-- `DEQUEUE-EXECUTE`: the head entry executes, then its slot is Invalid and the read cursor advances,
all in one step (40 R153, 41 R181). -/
def execDequeueExecute (s : State) : Result :=
  if s.dequeueEnabled then
    if cursorsBad s.params (s.queue.rd + 1) s.queue.wr then
      .fault (.queueInvariant s.queue.rd s.queue.wr)
    else .next (s.executeWord s.headEntry).popEntry
  else .next s

end Sys2Proof.Machine
end

