-- ==== Sys2Proof/Machine/Producer.lean ====
section
/-! DEFINITION. The Producer (spec/41_producer_consumer.md R170 to R176): MAKE-ENTRIES, ISSUE-WRITE and
ENQUEUE one entry a step (spec/40_command_queue.md R151, R152), ISSUE-READ (spec/45_status.md R350,
R352); the meanings of the bus accesses, the R rows, ENQUEUE, ENQUEUE.FULL, STATUS-READ and
DRAINED-READ. -/

namespace Sys2Proof.Machine

/-! ## Writes -/

/-- The 24-bit offset field of byte `i` of an access (41 R171, R173). -/
def offsetAt (sp : BusSpace) (off : BitVec 24) (i : Nat) : BitVec 24 :=
  match sp with
  | .mapped => off + BitVec.ofNat 24 i
  | .port => (off.setWidth 16 + BitVec.ofNat 16 i).setWidth 24

/-- `v & (2^(8w) - 1)` (41 R171). -/
def truncValue (w : Width) (v : Word) : Word := v &&& pixMask w.bytes

/-- Whether byte 0 of an access is a pixel-transfer byte (41 R171). -/
def startsPixel (sp : BusSpace) (off : BitVec 24) : Bool :=
  match decodeAddr (byteAddrAt sp off 0) with
  | .pixel _ => true
  | .reg _ _ => false
  | .none => false

/-- MAKE-ENTRIES (41 R171, R173). -/
def makeEntries (sp : BusSpace) (w : Width) (off : BitVec 24) (v : Word) : List EntryWord :=
  if startsPixel sp off then
    w.lanes.map (fun i => packEntry (kindCode sp .w1) (offsetAt sp off i) ((byteOf v i).setWidth 32))
  else [packEntry (kindCode sp w) off (truncValue w v)]

/-- The Producer's state once the entries before `rest` are enqueued. -/
def afterEntries (rest : List EntryWord) : PState :=
  match rest with
  | [] => .ready
  | e :: l => .waitRoom false (e :: l)

/-- ENQUEUE of the first entry of the access: with room 40 R151, else the start of 40 R152's hold. A
write cursor that would break the invariant is the fault of 40 R154. -/
def State.enqueueFirst (s : State) (pending : List EntryWord) : Result :=
  match pending with
  | [] => .next (s.withPState .ready)
  | e :: rest =>
    if s.full then .next ((s.withWake true).withPState (.waitRoom true (e :: rest)))
    else if cursorsBad s.params s.queue.rd (s.queue.wr + 1) then
      .fault (.queueInvariant s.queue.rd s.queue.wr)
    else
      let t := s.pushEntry e
      .next ((t.withWake (t.wakePending || wakesAt t.params t.occupancy)).withPState (afterEntries rest))

/-- An access is taken only from Ready and before close; the model refuses any other (41 R170, R186). -/
def State.ifReady (s : State) (r : Result) : Result :=
  if s.cstate = .stopped then .refused .closed
  else if s.pstate = .ready then r
  else .refused .cannotIssue

/-- ISSUE-WRITE, up to its first ENQUEUE: the issue and the first ENQUEUE are one step (41 R172;
log 6). -/
def State.issueWrite (s : State) (sp : BusSpace) (w : Width) (off : BitVec 24) (v : Word) : Result :=
  s.ifReady (s.enqueueFirst (makeEntries sp w off v))

/-- `ENQUEUE`: the next entry of the current access, when there is room (40 R151). A held access whose
wait `stop` has lifted is not enqueued (40 R152). -/
def execEnqueue (s : State) : Result :=
  match s.pstate with
  | .waitRoom held pending =>
    if s.full || (held && s.stop) then .next s else s.enqueueFirst pending
  | .ready => .next s
  | .waitDrain _ => .next s

/-- `ENQUEUE.FULL`: the queue is found full, or the hold is looked at again: `stop` discards the rest
of the access, room lets it go on (40 R152). -/
def execEnqueueFull (s : State) : Result :=
  match s.pstate with
  | .waitRoom held pending =>
    if held then
      if s.stop then .next (s.withPState .ready)
      else if s.full then .next s
      else s.enqueueFirst pending
    else if s.full then s.enqueueFirst pending
    else .next s
  | .ready => .next s
  | .waitDrain _ => .next s

/-! ## Reads -/

/-- The value of a read: its bytes, little-endian (45 R350, R352; 42 R240). -/
def State.readValue (s : State) (a : Access) : Word :=
  gatherLE (fun i => s.readByte (decodeAddr (byteAddrAt a.space a.addr i))) a.width.bytes

/-- Return a value to the Producer, which is Ready again (log 12). -/
def State.returnValue (s : State) (a : Access) : State :=
  (s.withOut { s.out with busData := some (s.readValue a) }).withPState .ready

/-- STATUS-READ (45 R350). -/
def State.readStatus (s : State) (a : Access) : State :=
  (s.withWake (s.wakePending || s.cstate == .idle)).returnValue a

/-- DRAINED-READ as issued: at once when the queue is empty, else the start of the hold (45 R352). -/
def State.readDrained (s : State) (a : Access) : State :=
  if 0 < s.occupancy then (s.withWake true).withPState (.waitDrain a) else s.returnValue a

/-- ISSUE-READ (41 R176). -/
def State.issueRead (s : State) (a : Access) : Result :=
  s.ifReady (.next (if a.isSynchronous then s.readStatus a else s.readDrained a))

/-- `STATUS-READ`: only a synchronous read is one (45 R350). -/
def execStatusRead (a : Access) (s : State) : Result :=
  if a.isSynchronous then s.ifReady (.next (s.readStatus a)) else .refused .cannotIssue

/-- `DRAINED-READ`: issued from Ready, or, while this read waits, looked at again: it returns when the
queue is empty or `stop` is set (45 R352). -/
def execDrainedRead (a : Access) (s : State) : Result :=
  if s.pstate = .waitDrain a then .next (if s.drained then s.returnValue a else s)
  else if a.isSynchronous then .refused .cannotIssue
  else s.ifReady (.next (s.readDrained a))

/-! ## The bus accesses -/

/-- `WRITE8` (41 R172). -/
def execWrite8 (a : BitVec 24) (v : Word) (s : State) : Result := s.issueWrite .mapped .w1 a v

/-- `WRITE16` (41 R172). -/
def execWrite16 (a : BitVec 24) (v : Word) (s : State) : Result := s.issueWrite .mapped .w2 a v

/-- `WRITE32` (41 R172). -/
def execWrite32 (a : BitVec 24) (v : Word) (s : State) : Result := s.issueWrite .mapped .w4 a v

/-- `OUT8` (41 R172). -/
def execOut8 (p : BitVec 16) (v : Word) (s : State) : Result :=
  s.issueWrite .port .w1 (p.setWidth 24) v

/-- `OUT16` (41 R172). -/
def execOut16 (p : BitVec 16) (v : Word) (s : State) : Result :=
  s.issueWrite .port .w2 (p.setWidth 24) v

/-- `OUT32` (41 R172). -/
def execOut32 (p : BitVec 16) (v : Word) (s : State) : Result :=
  s.issueWrite .port .w4 (p.setWidth 24) v

/-- `READ8` (41 R176). -/
def execRead8 (a : BitVec 24) (s : State) : Result := s.issueRead ⟨.mapped, a, .w1⟩

/-- `READ16` (41 R176). -/
def execRead16 (a : BitVec 24) (s : State) : Result := s.issueRead ⟨.mapped, a, .w2⟩

/-- `READ32` (41 R176). -/
def execRead32 (a : BitVec 24) (s : State) : Result := s.issueRead ⟨.mapped, a, .w4⟩

/-- `IN8` (41 R176). -/
def execIn8 (p : BitVec 16) (s : State) : Result := s.issueRead ⟨.port, p.setWidth 24, .w1⟩

/-- `IN16` (41 R176). -/
def execIn16 (p : BitVec 16) (s : State) : Result := s.issueRead ⟨.port, p.setWidth 24, .w2⟩

/-- `IN32` (41 R176). -/
def execIn32 (p : BitVec 16) (s : State) : Result := s.issueRead ⟨.port, p.setWidth 24, .w4⟩

/-! ## The R rows: a one-byte read of a register (42 R240; log 21) -/

/-- The one-byte read at a byte address. -/
def byteAccess (a : ByteAddr) : Access :=
  match a with
  | .mapped n => ⟨.mapped, BitVec.ofNat 24 n, .w1⟩
  | .port p => ⟨.port, p.setWidth 24, .w1⟩

/-- The one-byte read of a register's lane. -/
def State.readLane (s : State) (r : RegName) (sp : BusSpace) (lane : BitVec 2) : Result :=
  s.issueRead (byteAccess (laneAddr sp (r.port lane)))

/-- `R.CUR_Y` (42 R241, 45 R352). -/
def execRCurY (sp : BusSpace) (lane : BitVec 2) (s : State) : Result := s.readLane .curY sp lane

/-- `R.CUR_X` (42 R241, 45 R352). -/
def execRCurX (sp : BusSpace) (lane : BitVec 2) (s : State) : Result := s.readLane .curX sp lane

/-- `R.DESTY_AXSTP` (42 R241, 45 R352). -/
def execRDestyAxstp (sp : BusSpace) (lane : BitVec 2) (s : State) : Result := s.readLane .destyAxstp sp lane

/-- `R.DESTX_DIASTP` (42 R241, 45 R352). -/
def execRDestxDiastp (sp : BusSpace) (lane : BitVec 2) (s : State) : Result := s.readLane .destxDiastp sp lane

/-- `R.ERR_TERM` (42 R241, 45 R352). -/
def execRErrTerm (sp : BusSpace) (lane : BitVec 2) (s : State) : Result := s.readLane .errTerm sp lane

/-- `R.MAJ_AXIS_PCNT` (42 R241, 45 R352). -/
def execRMajAxisPcnt (sp : BusSpace) (lane : BitVec 2) (s : State) : Result := s.readLane .majAxisPcnt sp lane

/-- `R.GP_STAT` (45 R350, R351). -/
def execRGpStat (sp : BusSpace) (lane : BitVec 2) (s : State) : Result := s.readLane .cmd sp lane

/-- `R.SHORT_STROKE` (42 R241, 45 R352). -/
def execRShortStroke (sp : BusSpace) (lane : BitVec 2) (s : State) : Result := s.readLane .shortStroke sp lane

/-- `R.BKGD_COLOR` (42 R241, 45 R352). -/
def execRBkgdColor (sp : BusSpace) (lane : BitVec 2) (s : State) : Result := s.readLane .bkgdColor sp lane

/-- `R.FRGD_COLOR` (42 R241, 45 R352). -/
def execRFrgdColor (sp : BusSpace) (lane : BitVec 2) (s : State) : Result := s.readLane .frgdColor sp lane

/-- `R.WRT_MASK` (42 R241, 45 R352). -/
def execRWrtMask (sp : BusSpace) (lane : BitVec 2) (s : State) : Result := s.readLane .wrtMask sp lane

/-- `R.RD_MASK` (42 R241, 45 R352). -/
def execRRdMask (sp : BusSpace) (lane : BitVec 2) (s : State) : Result := s.readLane .rdMask sp lane

/-- `R.COLOR_CMP` (42 R241, 45 R352). -/
def execRColorCmp (sp : BusSpace) (lane : BitVec 2) (s : State) : Result := s.readLane .colorCmp sp lane

/-- `R.BKGD_MIX` (42 R241, 45 R352). -/
def execRBkgdMix (sp : BusSpace) (lane : BitVec 2) (s : State) : Result := s.readLane .bkgdMix sp lane

/-- `R.FRGD_MIX` (42 R241, 45 R352). -/
def execRFrgdMix (sp : BusSpace) (lane : BitVec 2) (s : State) : Result := s.readLane .frgdMix sp lane

/-- `R.MULTIFUNC` (42 R242, 45 R352). -/
def execRMultifunc (sp : BusSpace) (lane : BitVec 2) (s : State) : Result := s.readLane .multifunc sp lane

/-- `R.PIX_TRANS` (42 R240). -/
def execRPixTrans (sp : BusSpace) (lane : BitVec 2) (s : State) : Result :=
  s.issueRead (byteAccess (laneAddr sp (pixTransBase + lane.setWidth 16)))

/-- `R.PIX_TRANS.WINDOW` (30 R113, 42 R240). -/
def execRPixTransWindow (o : BitVec 15) (s : State) : Result := s.issueRead ⟨.mapped, o.setWidth 24, .w1⟩

/-- `R.NONE` (42 R240). -/
def execRNone (a : ByteAddr) (s : State) : Result := s.issueRead (byteAccess a)

end Sys2Proof.Machine
end

