-- ==== Sys2Proof/Machine/HostCalls.lean ====
section
/-! DEFINITION. The Host (spec/10_state.md R30, R38, spec/45_status.md R354, R356,
spec/70_reset_and_hazards.md R414, spec/20_memory.md R77, R79): the meanings of WAIT-IDLE,
REPORT-UTILIZATION, CONFIG and CLOSE, and the Host's framebuffer accesses. -/

namespace Sys2Proof.Machine

/-- `WAIT-IDLE`: called from Ready, or, while it holds, looked at again (45 R354). A Host that waits in
close alone has no such step (00 R14; log 20). -/
def execWaitIdle (s : State) : Result :=
  match s.hstate with
  | .ready =>
    let s := s.withWake (s.wakePending || decide (0 < s.occupancy))
    .next (if s.idleForHost then s else s.withHState .waitIdle)
  | .waitIdle => .next (if s.idleForHost then s.withHState .ready else s)
  | .waitBoth => .next (if s.idleForHost then s.withHState .waitStopped else s)
  | .waitStopped => .next s

/-- `REPORT-UTILIZATION` returns a free natural number; nothing of the spec's state is read or written
(45 R356; log 11). A Host that holds in WAIT-IDLE or close has no such step (00 R14; log 20). -/
def execReportUtilization (s : State) : Result :=
  match s.hstate with
  | .ready =>
    .next ((s.withOut { s.out with utilization := some (Config.utilization s.freeCtr) }).withFreeCtr
      (s.freeCtr + 1))
  | .waitIdle => .next s
  | .waitStopped => .next s
  | .waitBoth => .next s

/-- The framebuffer and dirty bitmap of a new size: free contents (70 R414; log 10). -/
def State.freshVram (s : State) : State :=
  ((s.withFb (pictureOf s.params.vramBytes (Config.freshPicture s.freeCtr))).withDirty
    (dirtyOf (pageCount s.params) (Config.freshDirty s.freeCtr))).withFreeCtr (s.freeCtr + 1)

/-- CONFIG's condition (70 R414). -/
def State.configEnabled (s : State) : Bool := s.occupancy == 0 && s.cstate != .draining

/-- CONFIG's effects: a waiting primitive is abandoned, the three values are set, a changed size gives
new free contents (70 R414). -/
def State.applyConfig (s : State) (pb pitch vramBytes : Nat) : State :=
  let t := if s.ex.active then s.abandon else s
  let t := t.withParams { t.params with pb := pb, pitch := pitch, vramBytes := vramBytes }
  if vramBytes = s.params.vramBytes then t else t.freshVram

/-- `CONFIG` (70 R414). A Host that waits in WAIT-IDLE makes its change in the step in which that call
returns (45 R355; log 20); a Host that waits in close has no step (00 R14). -/
def execConfig (pb pitch vramBytes : Nat) (s : State) : Result :=
  match s.hstate with
  | .waitStopped => .next s
  | .waitBoth => .next s
  | .ready =>
    if !s.configEnabled then .refused .configWhileBusy
    else if !configOk pb pitch vramBytes then .refused .badConfiguration
    else .next (s.applyConfig pb pitch vramBytes)
  | .waitIdle =>
    if !s.configEnabled then .refused .configWhileBusy
    else if !configOk pb pitch vramBytes then .refused .badConfiguration
    else .next ((s.withHState .ready).applyConfig pb pitch vramBytes)

/-- close called: sets `stop` and `wake_pending`, then waits until the Consumer is Stopped (10 R38). The
Host's position is `before` once that wait is over and `waiting` until then. -/
def State.callClose (s : State) (before waiting : HState) : State :=
  ((s.withStop true).withWake true).withHState (if s.cstate = .stopped then before else waiting)

/-- `CLOSE` (10 R38). It is taken while WAIT-IDLE holds too, whose hold its `stop` lifts (45 R354, 92 D44;
log 20). -/
def execClose (s : State) : Result :=
  match s.hstate with
  | .ready => .next (s.callClose .ready .waitStopped)
  | .waitIdle => .next (s.callClose .waitIdle .waitBoth)
  | .waitStopped => .next (if s.cstate = .stopped then s.withHState .ready else s)
  | .waitBoth => .next (if s.cstate = .stopped then s.withHState .waitIdle else s)

/-- The Host writes one framebuffer byte, at any time (20 R79); an address is reduced by the size
(20 R81). -/
def State.hostWrite (s : State) (a : Nat) (b : Byte) : State :=
  s.withFb (s.fb.write (a % s.params.vramBytes) b)

/-- The Host reads one framebuffer byte, as the last completed step left it (20 R77). -/
def State.hostRead (s : State) (a : Nat) : State := s.withOut { s.out with fbByte := some (s.fbAt a) }

end Sys2Proof.Machine
end

