-- ==== Sys2Proof/Machine/Schedule.lean ====
section
/-! DEFINITION. Which operation happens next (spec/00_scope.md R15, spec/60_exceptions.md R375): the
head of the input list, or, when the list is empty or its head has to wait, an enabled step of the
agents in a fixed order (log 1, log 2). -/

namespace Sys2Proof.Machine

/-- The Consumer's enabled step: at most one is (41 R185). -/
def State.consumerStep (s : State) : Option Instr :=
  if s.dequeueEnabled then some .dequeueExecute
  else if s.emptyEnabled then some .empty
  else if s.wakeEnabled then some .wake
  else if s.stopEnabled then some .stop
  else none

/-- The waiting Producer's enabled step (40 R151, R152; 45 R352). -/
def State.producerStep (s : State) : Option Instr :=
  match s.pstate with
  | .ready => none
  | .waitRoom held _ =>
    if held then (if s.stop || !s.full then some .enqueueFull else none)
    else if s.full then some .enqueueFull
    else some .enqueue
  | .waitDrain a => if s.drained then some (.drainedRead a) else none

/-- The waiting Host's enabled step (45 R354; 10 R38). With both calls waiting WAIT-IDLE returns first
(log 20). -/
def State.hostStep (s : State) : Option Instr :=
  match s.hstate with
  | .ready => none
  | .waitIdle => if s.idleForHost then some .waitIdle else none
  | .waitStopped => if s.cstate = .stopped then some .close else none
  | .waitBoth => if s.idleForHost then some .waitIdle else none

/-- The step taken when no input says otherwise: the Consumer's, else the Producer's, else the Host's
(log 2). -/
def State.ownStep (s : State) : Option Instr :=
  match s.consumerStep with
  | some i => some i
  | none =>
    match s.producerStep with
    | some i => some i
    | none => s.hostStep

/-- The Producer accesses (41 R170): the twelve bus accesses, the one-byte reads and the two read
steps. -/
def isAccess : Instr → Bool
  | .entryInvalid _ _ => false
  | .entryWriteByte _ _ => false
  | .entryWriteWord _ _ => false
  | .entryWriteDword _ _ => false
  | .entryOutByte _ _ => false
  | .entryOutWord _ _ => false
  | .entryOutDword _ _ => false
  | .write8 _ _ => true
  | .write16 _ _ => true
  | .write32 _ _ => true
  | .out8 _ _ => true
  | .out16 _ _ => true
  | .out32 _ _ => true
  | .read8 _ => true
  | .read16 _ => true
  | .read32 _ => true
  | .in8 _ => true
  | .in16 _ => true
  | .in32 _ => true
  | .wCurY _ _ _ => false
  | .wCurX _ _ _ => false
  | .wDestyAxstp _ _ _ => false
  | .wDestxDiastp _ _ _ => false
  | .wErrTerm _ _ _ => false
  | .wMajAxisPcnt _ _ _ => false
  | .wCmd _ _ _ => false
  | .wShortStroke _ _ _ => false
  | .wBkgdColor _ _ _ => false
  | .wFrgdColor _ _ _ => false
  | .wWrtMask _ _ _ => false
  | .wRdMask _ _ _ => false
  | .wColorCmp _ _ _ => false
  | .wBkgdMix _ _ _ => false
  | .wFrgdMix _ _ _ => false
  | .wMultifuncCntl _ _ _ => false
  | .wPixTrans _ _ _ => false
  | .wPixTransWindow _ _ => false
  | .wNone _ _ => false
  | .rCurY _ _ => true
  | .rCurX _ _ => true
  | .rDestyAxstp _ _ => true
  | .rDestxDiastp _ _ => true
  | .rErrTerm _ _ => true
  | .rMajAxisPcnt _ _ => true
  | .rGpStat _ _ => true
  | .rShortStroke _ _ => true
  | .rBkgdColor _ _ => true
  | .rFrgdColor _ _ => true
  | .rWrtMask _ _ => true
  | .rRdMask _ _ => true
  | .rColorCmp _ _ => true
  | .rBkgdMix _ _ => true
  | .rFrgdMix _ _ => true
  | .rMultifunc _ _ => true
  | .rPixTrans _ _ => true
  | .rPixTransWindow _ => true
  | .rNone _ => true
  | .cmdNop _ => false
  | .cmdLine _ => false
  | .cmdRect _ => false
  | .cmdRsv3 _ => false
  | .cmdRsv4 _ => false
  | .cmdRsv5 _ => false
  | .cmdBlit _ => false
  | .cmdPat _ => false
  | .cmdLineBresenham _ _ => false
  | .cmdLineRadial _ _ => false
  | .mixNotD _ => false
  | .mixZero _ => false
  | .mixOne _ => false
  | .mixD _ => false
  | .mixNotS _ => false
  | .mixSXorD _ => false
  | .mixSXnorD _ => false
  | .mixS _ => false
  | .mixSNandD _ => false
  | .mixNotSOrD _ => false
  | .mixSOrNotD _ => false
  | .mixSOrD _ => false
  | .mixSAndD _ => false
  | .mixSAndNotD _ => false
  | .mixNotSAndD _ => false
  | .mixSNorD _ => false
  | .srcBkgdColor _ _ => false
  | .srcFrgdColor _ _ => false
  | .srcCpuData _ _ => false
  | .srcDisplayMemory _ _ => false
  | .mixselAlwaysFg _ _ => false
  | .mixselReservedAs0 _ _ => false
  | .mixselCpuData _ _ => false
  | .mixselDisplayMemory _ _ => false
  | .cmpAlways _ _ => false
  | .cmpNever _ _ => false
  | .cmpNe _ _ => false
  | .cmpEq _ _ => false
  | .mfMinAxisPcnt _ => false
  | .mfScissorsT _ => false
  | .mfScissorsL _ => false
  | .mfScissorsB _ => false
  | .mfScissorsR _ => false
  | .mfSlot5 _ => false
  | .mfSlot6 _ => false
  | .mfSlot7 _ => false
  | .mfSlot8 _ => false
  | .mfSlot9 _ => false
  | .mfPixCntl _ => false
  | .mfSlotb _ => false
  | .mfSlotc _ => false
  | .mfSlotd _ => false
  | .mfMultMisc _ => false
  | .mfReadSel _ => false
  | .enqueue => false
  | .enqueueFull => false
  | .dequeueExecute => false
  | .wake => false
  | .empty => false
  | .stop => false
  | .statusRead _ => true
  | .drainedRead _ => true
  | .waitIdle => false
  | .reportUtilization => false
  | .config _ _ _ => false
  | .close => false

/-- CONFIG, whatever its values. -/
def isConfig : Instr → Bool
  | .config _ _ _ => true
  | _ => false

/-- An input that has to wait its turn: an access while the Producer is not Ready (41 R170), and a Host
call, REPORT-UTILIZATION among them, while the Host holds in WAIT-IDLE or close (00 R14). Not held are the
waiting operation itself; CLOSE while WAIT-IDLE holds, since `stop` lifts every Host wait (92 D44); and
CONFIG once what WAIT-IDLE waited for holds (45 R355). Which calls are held is the model's choice
(log 20). After close an access does not wait: it is refused (41 R186). -/
def State.heldBack (s : State) (i : Instr) : Bool :=
  if isAccess i then
    s.pstate != .ready && s.cstate != .stopped &&
      (match s.pstate with
      | .waitDrain a => i != .drainedRead a
      | .waitRoom _ _ => true
      | .ready => false)
  else
    match s.hstate with
    | .ready => false
    | .waitIdle => i == .reportUtilization || (isConfig i && !s.idleForHost)
    | .waitStopped => i == .reportUtilization || i == .waitIdle || isConfig i
    | .waitBoth => i == .reportUtilization || isConfig i

/-- What happens next. -/
inductive Action where
  /-- An instruction runs on a state. -/
  | run (i : Instr) (s : State)
  /-- The state changes by no instruction. -/
  | goto (s : State)
  /-- The operation is refused. -/
  | refuse (r : Refusal)
deriving DecidableEq, Repr

/-- An enabled step of the agents, or nothing: every agent waits and the state stays. -/
def State.ownAction (s : State) : Action :=
  match s.ownStep with
  | some i => .run i s
  | none => .goto s

/-- What an input does to the state it was taken from. The Host's framebuffer accesses and dirty clears are
no calls: they stand between any two steps, whatever the Host waits in (20 R77, R79). -/
def State.inputAction (s : State) (rest : List Input) (inp : Input) : Action :=
  match inp with
  | .hostWrite a b => .goto ((s.withInputs rest).hostWrite a b)
  | .hostRead a => .goto ((s.withInputs rest).hostRead a)
  | .clearDirty page => .goto ((s.withInputs rest).clearDirty page)
  | .word sp w =>
    match decode sp w with
    | .ok i => if s.heldBack i then s.ownAction else .run i (s.withInputs rest)
    | .error .reservedEntryType => .goto (s.withInputs rest)
    | .error e => .refuse (.undecodable e)

/-- The next action. -/
def State.nextAction (s : State) : Action :=
  match s.inputs with
  | [] => s.ownAction
  | inp :: rest => s.inputAction rest inp

/-- Put an operation word at the head of the inputs. -/
def State.placeWord (s : State) (c : WordSpace × EntryWord) : State :=
  s.withInputs (.word c.1 c.2 :: s.inputs)

end Sys2Proof.Machine
end

