-- ==== Sys2Proof/Machine/Dispatch.lean ====
section
/-! DEFINITION. The dispatch: one arm per constructor of `Instr`. -/

namespace Sys2Proof.Machine

def exec (i : Instr) (s : State) : Host.Outcome State Fault Refusal :=
  match i with
  | .entryInvalid off payload => Sys2Proof.Machine.execEntryInvalid off payload s
  | .entryWriteByte off payload => Sys2Proof.Machine.execEntryWriteByte off payload s
  | .entryWriteWord off payload => Sys2Proof.Machine.execEntryWriteWord off payload s
  | .entryWriteDword off payload => Sys2Proof.Machine.execEntryWriteDword off payload s
  | .entryOutByte off payload => Sys2Proof.Machine.execEntryOutByte off payload s
  | .entryOutWord off payload => Sys2Proof.Machine.execEntryOutWord off payload s
  | .entryOutDword off payload => Sys2Proof.Machine.execEntryOutDword off payload s
  | .write8 o v => Sys2Proof.Machine.execWrite8 o v s
  | .write16 o v => Sys2Proof.Machine.execWrite16 o v s
  | .write32 o v => Sys2Proof.Machine.execWrite32 o v s
  | .out8 p v => Sys2Proof.Machine.execOut8 p v s
  | .out16 p v => Sys2Proof.Machine.execOut16 p v s
  | .out32 p v => Sys2Proof.Machine.execOut32 p v s
  | .read8 o => Sys2Proof.Machine.execRead8 o s
  | .read16 o => Sys2Proof.Machine.execRead16 o s
  | .read32 o => Sys2Proof.Machine.execRead32 o s
  | .in8 p => Sys2Proof.Machine.execIn8 p s
  | .in16 p => Sys2Proof.Machine.execIn16 p s
  | .in32 p => Sys2Proof.Machine.execIn32 p s
  | .wCurY sp lane b => Sys2Proof.Machine.execWCurY sp lane b s
  | .wCurX sp lane b => Sys2Proof.Machine.execWCurX sp lane b s
  | .wDestyAxstp sp lane b => Sys2Proof.Machine.execWDestyAxstp sp lane b s
  | .wDestxDiastp sp lane b => Sys2Proof.Machine.execWDestxDiastp sp lane b s
  | .wErrTerm sp lane b => Sys2Proof.Machine.execWErrTerm sp lane b s
  | .wMajAxisPcnt sp lane b => Sys2Proof.Machine.execWMajAxisPcnt sp lane b s
  | .wCmd sp lane b => Sys2Proof.Machine.execWCmd sp lane b s
  | .wShortStroke sp lane b => Sys2Proof.Machine.execWShortStroke sp lane b s
  | .wBkgdColor sp lane b => Sys2Proof.Machine.execWBkgdColor sp lane b s
  | .wFrgdColor sp lane b => Sys2Proof.Machine.execWFrgdColor sp lane b s
  | .wWrtMask sp lane b => Sys2Proof.Machine.execWWrtMask sp lane b s
  | .wRdMask sp lane b => Sys2Proof.Machine.execWRdMask sp lane b s
  | .wColorCmp sp lane b => Sys2Proof.Machine.execWColorCmp sp lane b s
  | .wBkgdMix sp lane b => Sys2Proof.Machine.execWBkgdMix sp lane b s
  | .wFrgdMix sp lane b => Sys2Proof.Machine.execWFrgdMix sp lane b s
  | .wMultifuncCntl sp lane b => Sys2Proof.Machine.execWMultifuncCntl sp lane b s
  | .wPixTrans sp lane b => Sys2Proof.Machine.execWPixTrans sp lane b s
  | .wPixTransWindow o b => Sys2Proof.Machine.execWPixTransWindow o b s
  | .wNone a b => Sys2Proof.Machine.execWNone a b s
  | .rCurY sp lane => Sys2Proof.Machine.execRCurY sp lane s
  | .rCurX sp lane => Sys2Proof.Machine.execRCurX sp lane s
  | .rDestyAxstp sp lane => Sys2Proof.Machine.execRDestyAxstp sp lane s
  | .rDestxDiastp sp lane => Sys2Proof.Machine.execRDestxDiastp sp lane s
  | .rErrTerm sp lane => Sys2Proof.Machine.execRErrTerm sp lane s
  | .rMajAxisPcnt sp lane => Sys2Proof.Machine.execRMajAxisPcnt sp lane s
  | .rGpStat sp lane => Sys2Proof.Machine.execRGpStat sp lane s
  | .rShortStroke sp lane => Sys2Proof.Machine.execRShortStroke sp lane s
  | .rBkgdColor sp lane => Sys2Proof.Machine.execRBkgdColor sp lane s
  | .rFrgdColor sp lane => Sys2Proof.Machine.execRFrgdColor sp lane s
  | .rWrtMask sp lane => Sys2Proof.Machine.execRWrtMask sp lane s
  | .rRdMask sp lane => Sys2Proof.Machine.execRRdMask sp lane s
  | .rColorCmp sp lane => Sys2Proof.Machine.execRColorCmp sp lane s
  | .rBkgdMix sp lane => Sys2Proof.Machine.execRBkgdMix sp lane s
  | .rFrgdMix sp lane => Sys2Proof.Machine.execRFrgdMix sp lane s
  | .rMultifunc sp lane => Sys2Proof.Machine.execRMultifunc sp lane s
  | .rPixTrans sp lane => Sys2Proof.Machine.execRPixTrans sp lane s
  | .rPixTransWindow o => Sys2Proof.Machine.execRPixTransWindow o s
  | .rNone a => Sys2Proof.Machine.execRNone a s
  | .cmdNop lo => Sys2Proof.Machine.execCmdNop lo s
  | .cmdLine lo => Sys2Proof.Machine.execCmdLine lo s
  | .cmdRect lo => Sys2Proof.Machine.execCmdRect lo s
  | .cmdRsv3 lo => Sys2Proof.Machine.execCmdRsv3 lo s
  | .cmdRsv4 lo => Sys2Proof.Machine.execCmdRsv4 lo s
  | .cmdRsv5 lo => Sys2Proof.Machine.execCmdRsv5 lo s
  | .cmdBlit lo => Sys2Proof.Machine.execCmdBlit lo s
  | .cmdPat lo => Sys2Proof.Machine.execCmdPat lo s
  | .cmdLineBresenham hi lo => Sys2Proof.Machine.execCmdLineBresenham hi lo s
  | .cmdLineRadial hi lo => Sys2Proof.Machine.execCmdLineRadial hi lo s
  | .mixNotD hi => Sys2Proof.Machine.execMixNotD hi s
  | .mixZero hi => Sys2Proof.Machine.execMixZero hi s
  | .mixOne hi => Sys2Proof.Machine.execMixOne hi s
  | .mixD hi => Sys2Proof.Machine.execMixD hi s
  | .mixNotS hi => Sys2Proof.Machine.execMixNotS hi s
  | .mixSXorD hi => Sys2Proof.Machine.execMixSXorD hi s
  | .mixSXnorD hi => Sys2Proof.Machine.execMixSXnorD hi s
  | .mixS hi => Sys2Proof.Machine.execMixS hi s
  | .mixSNandD hi => Sys2Proof.Machine.execMixSNandD hi s
  | .mixNotSOrD hi => Sys2Proof.Machine.execMixNotSOrD hi s
  | .mixSOrNotD hi => Sys2Proof.Machine.execMixSOrNotD hi s
  | .mixSOrD hi => Sys2Proof.Machine.execMixSOrD hi s
  | .mixSAndD hi => Sys2Proof.Machine.execMixSAndD hi s
  | .mixSAndNotD hi => Sys2Proof.Machine.execMixSAndNotD hi s
  | .mixNotSAndD hi => Sys2Proof.Machine.execMixNotSAndD hi s
  | .mixSNorD hi => Sys2Proof.Machine.execMixSNorD hi s
  | .srcBkgdColor hi lo => Sys2Proof.Machine.execSrcBkgdColor hi lo s
  | .srcFrgdColor hi lo => Sys2Proof.Machine.execSrcFrgdColor hi lo s
  | .srcCpuData hi lo => Sys2Proof.Machine.execSrcCpuData hi lo s
  | .srcDisplayMemory hi lo => Sys2Proof.Machine.execSrcDisplayMemory hi lo s
  | .mixselAlwaysFg hi lo => Sys2Proof.Machine.execMixselAlwaysFg hi lo s
  | .mixselReservedAs0 hi lo => Sys2Proof.Machine.execMixselReservedAs0 hi lo s
  | .mixselCpuData hi lo => Sys2Proof.Machine.execMixselCpuData hi lo s
  | .mixselDisplayMemory hi lo => Sys2Proof.Machine.execMixselDisplayMemory hi lo s
  | .cmpAlways hi lo => Sys2Proof.Machine.execCmpAlways hi lo s
  | .cmpNever hi lo => Sys2Proof.Machine.execCmpNever hi lo s
  | .cmpNe hi lo => Sys2Proof.Machine.execCmpNe hi lo s
  | .cmpEq hi lo => Sys2Proof.Machine.execCmpEq hi lo s
  | .mfMinAxisPcnt data => Sys2Proof.Machine.execMfMinAxisPcnt data s
  | .mfScissorsT data => Sys2Proof.Machine.execMfScissorsT data s
  | .mfScissorsL data => Sys2Proof.Machine.execMfScissorsL data s
  | .mfScissorsB data => Sys2Proof.Machine.execMfScissorsB data s
  | .mfScissorsR data => Sys2Proof.Machine.execMfScissorsR data s
  | .mfSlot5 data => Sys2Proof.Machine.execMfSlot5 data s
  | .mfSlot6 data => Sys2Proof.Machine.execMfSlot6 data s
  | .mfSlot7 data => Sys2Proof.Machine.execMfSlot7 data s
  | .mfSlot8 data => Sys2Proof.Machine.execMfSlot8 data s
  | .mfSlot9 data => Sys2Proof.Machine.execMfSlot9 data s
  | .mfPixCntl data => Sys2Proof.Machine.execMfPixCntl data s
  | .mfSlotb data => Sys2Proof.Machine.execMfSlotb data s
  | .mfSlotc data => Sys2Proof.Machine.execMfSlotc data s
  | .mfSlotd data => Sys2Proof.Machine.execMfSlotd data s
  | .mfMultMisc data => Sys2Proof.Machine.execMfMultMisc data s
  | .mfReadSel data => Sys2Proof.Machine.execMfReadSel data s
  | .enqueue => Sys2Proof.Machine.execEnqueue s
  | .enqueueFull => Sys2Proof.Machine.execEnqueueFull s
  | .dequeueExecute => Sys2Proof.Machine.execDequeueExecute s
  | .wake => Sys2Proof.Machine.execWake s
  | .empty => Sys2Proof.Machine.execEmpty s
  | .stop => Sys2Proof.Machine.execStop s
  | .statusRead a => Sys2Proof.Machine.execStatusRead a s
  | .drainedRead a => Sys2Proof.Machine.execDrainedRead a s
  | .waitIdle => Sys2Proof.Machine.execWaitIdle s
  | .reportUtilization => Sys2Proof.Machine.execReportUtilization s
  | .config pb pitch vramBytes => Sys2Proof.Machine.execConfig pb pitch vramBytes s
  | .close => Sys2Proof.Machine.execClose s

end Sys2Proof.Machine
end

