-- ==== Sys2Proof/Machine/Step.lean ====
section
/-! DEFINITION. One step of the machine, and where a word of the opcode table is placed so that the
next step runs it (log 16, log 17). -/

namespace Sys2Proof.Machine

/-- One step: the next action, its instruction run by `exec`. -/
def step (s : State) : Host.Outcome State Fault Refusal :=
  match s.nextAction with
  | .run i t => exec i t
  | .goto t => .next t
  | .refuse r => .refused r

/-- The state with a word of the opcode table as the next input. -/
def State.withFetchWord (s : State) (nbits w : Nat) : State := s.placeWord (tableWord nbits w)

end Sys2Proof.Machine
end

