-- ==== Sys2Proof/WellFormed.lean ====
section
/-! DEFINITION. Which terms of `Instr` stand for a word: operands within the fields that hold them
(spec/30_encoding.md R100, R112, R113, R115; spec/41_producer_consumer.md R170). -/

namespace Sys2Proof

/-- A port entry's offset is a port number, bits 55:48 zero (30 R100). -/
def portEntryWf (off : BitVec 24) : Bool := off.extractLsb' 16 8 == 0#8

/-- An address of the NONE rows: it decodes to NONE, and a mapped one has 24 bits (30 R112, R113). -/
def noneAddrWf (a : ByteAddr) : Bool :=
  decodeAddr a == .none && (match a with | .mapped o => o < 2 ^ 24 | .port _ => true)

/-- An access: a port number has 16 bits (41 R170). -/
def Access.wf (a : Access) : Bool :=
  match a.space with
  | .mapped => true
  | .port => a.addr.extractLsb' 16 8 == 0#8

/-- Well-formed instructions. -/
def Instr.wf : Instr → Bool
  | .entryOutByte off _ => portEntryWf off
  | .entryOutWord off _ => portEntryWf off
  | .entryOutDword off _ => portEntryWf off
  | .wNone a _ => noneAddrWf a
  | .rNone a => noneAddrWf a
  | .statusRead a => a.wf && a.isSynchronous
  | .drainedRead a => a.wf && !a.isSynchronous
  | .config pb pitch vramBytes => pb < 2 ^ 8 && pitch < 2 ^ 16 && vramBytes < 2 ^ 32
  | .entryInvalid _ _ => true
  | .entryWriteByte _ _ => true
  | .entryWriteWord _ _ => true
  | .entryWriteDword _ _ => true
  | .write8 _ _ => true
  | .write16 _ _ => true
  | .write32 _ _ => true
  | .out8 _ _ => true
  | .out16 _ _ => true
  | .out32 _ _ => true
  | .read8 _ => true
  | .read16 _ => true
  | .read32 _ => true
  | .in8 _ => true
  | .in16 _ => true
  | .in32 _ => true
  | .wCurY _ _ _ => true
  | .wCurX _ _ _ => true
  | .wDestyAxstp _ _ _ => true
  | .wDestxDiastp _ _ _ => true
  | .wErrTerm _ _ _ => true
  | .wMajAxisPcnt _ _ _ => true
  | .wCmd _ _ _ => true
  | .wShortStroke _ _ _ => true
  | .wBkgdColor _ _ _ => true
  | .wFrgdColor _ _ _ => true
  | .wWrtMask _ _ _ => true
  | .wRdMask _ _ _ => true
  | .wColorCmp _ _ _ => true
  | .wBkgdMix _ _ _ => true
  | .wFrgdMix _ _ _ => true
  | .wMultifuncCntl _ _ _ => true
  | .wPixTrans _ _ _ => true
  | .wPixTransWindow _ _ => true
  | .rCurY _ _ => true
  | .rCurX _ _ => true
  | .rDestyAxstp _ _ => true
  | .rDestxDiastp _ _ => true
  | .rErrTerm _ _ => true
  | .rMajAxisPcnt _ _ => true
  | .rGpStat _ _ => true
  | .rShortStroke _ _ => true
  | .rBkgdColor _ _ => true
  | .rFrgdColor _ _ => true
  | .rWrtMask _ _ => true
  | .rRdMask _ _ => true
  | .rColorCmp _ _ => true
  | .rBkgdMix _ _ => true
  | .rFrgdMix _ _ => true
  | .rMultifunc _ _ => true
  | .rPixTrans _ _ => true
  | .rPixTransWindow _ => true
  | .cmdNop _ => true
  | .cmdLine _ => true
  | .cmdRect _ => true
  | .cmdRsv3 _ => true
  | .cmdRsv4 _ => true
  | .cmdRsv5 _ => true
  | .cmdBlit _ => true
  | .cmdPat _ => true
  | .cmdLineBresenham _ _ => true
  | .cmdLineRadial _ _ => true
  | .mixNotD _ => true
  | .mixZero _ => true
  | .mixOne _ => true
  | .mixD _ => true
  | .mixNotS _ => true
  | .mixSXorD _ => true
  | .mixSXnorD _ => true
  | .mixS _ => true
  | .mixSNandD _ => true
  | .mixNotSOrD _ => true
  | .mixSOrNotD _ => true
  | .mixSOrD _ => true
  | .mixSAndD _ => true
  | .mixSAndNotD _ => true
  | .mixNotSAndD _ => true
  | .mixSNorD _ => true
  | .srcBkgdColor _ _ => true
  | .srcFrgdColor _ _ => true
  | .srcCpuData _ _ => true
  | .srcDisplayMemory _ _ => true
  | .mixselAlwaysFg _ _ => true
  | .mixselReservedAs0 _ _ => true
  | .mixselCpuData _ _ => true
  | .mixselDisplayMemory _ _ => true
  | .cmpAlways _ _ => true
  | .cmpNever _ _ => true
  | .cmpNe _ _ => true
  | .cmpEq _ _ => true
  | .mfMinAxisPcnt _ => true
  | .mfScissorsT _ => true
  | .mfScissorsL _ => true
  | .mfScissorsB _ => true
  | .mfScissorsR _ => true
  | .mfSlot5 _ => true
  | .mfSlot6 _ => true
  | .mfSlot7 _ => true
  | .mfSlot8 _ => true
  | .mfSlot9 _ => true
  | .mfPixCntl _ => true
  | .mfSlotb _ => true
  | .mfSlotc _ => true
  | .mfSlotd _ => true
  | .mfMultMisc _ => true
  | .mfReadSel _ => true
  | .enqueue => true
  | .enqueueFull => true
  | .dequeueExecute => true
  | .wake => true
  | .empty => true
  | .stop => true
  | .waitIdle => true
  | .reportUtilization => true
  | .close => true

end Sys2Proof
end

