-- ==== Sys2Proof/Safety.lean ====
section
/-! DEFINITION. What a safe state and a safe step are, in the terms the statements use: the invariants
the specification gives the block (spec/10_state.md R32, R35, R36, R43, R45, R46; spec/00_scope.md R9;
spec/30_encoding.md R102; spec/40_command_queue.md R154, R157), the queue read as a list, and a run of
several instructions. -/

namespace Sys2Proof.Machine

open Sys2Proof

/-- The parameters 00 R9 admits: `QCAP` a power of two of at least 8, and a configuration no model
refuses. -/
def validParams (p : Params) : Prop :=
  (∃ k, p.qcap = 2 ^ k) ∧ 8 ≤ p.qcap ∧ configOk p.pb p.pitch p.vramBytes = true

/-- An entry the Producer may make (30 R101, R102): its kind has a code, its payload no bit at or above
`8 * width`, and a port entry a 16-bit port number (30 R100). -/
def entryOk (e : EntryWord) : Prop :=
  match kindOf (entryType e) with
  | some (sp, w) =>
    entryPayload e &&& ~~~pixMask w.bytes = 0#32 ∧ (sp = .port → portEntryWf (entryOffset e) = true)
  | none => False

/-- Slot `k` of the queue. -/
def State.slot (s : State) (k : Nat) : EntryWord := s.queue.slots.getD k 0#64

/-- The queued entries, oldest first: slots `(q.rd + i) & QMASK` for `i < n` (10 R32). -/
def State.contents (s : State) : List EntryWord :=
  (List.range s.occupancy).map (fun i => s.slot (slotIndex s.params (s.queue.rd + i)))

/-- Whether slot `k` is one of those that hold the queued entries (10 R32). -/
def State.occupied (s : State) (k : Nat) : Prop :=
  ∃ i < s.occupancy, k = slotIndex s.params (s.queue.rd + i)

/-- The queue invariant (10 R32): the cursors keep their order and distance, exactly the occupied slots
hold an entry, and the others are Invalid. -/
def queueOk (s : State) : Prop :=
  s.queue.slots.length = s.params.qcap ∧ s.queue.rd ≤ s.queue.wr ∧
    s.queue.wr - s.queue.rd ≤ s.params.qcap ∧
    ∀ k < s.params.qcap, (s.occupied k → entryOk (s.slot k)) ∧ (¬ s.occupied k → s.slot k = 0#64)

/-- The Consumer's invariants: `busy` exactly while Draining (10 R35), the wake invariant (40 R157), and
Stopped only after `stop` (41 R184). -/
def consumerOk (s : State) : Prop :=
  (s.busy = true ↔ s.cstate = .draining) ∧
    (s.cstate = .idle → 0 < s.occupancy → s.wakePending = true) ∧
    (s.cstate = .stopped → s.stop = true)

/-- The Producer's state is one of 10 R36: the pending entries of an access are not none and at most
four (41 R171), and a waiting read is a drained one (45 R352). -/
def producerOk (s : State) : Prop :=
  match s.pstate with
  | .ready => True
  | .waitRoom _ pending => pending ≠ [] ∧ pending.length ≤ 4 ∧ ∀ e ∈ pending, entryOk e
  | .waitDrain a => a.isSynchronous = false

/-- The Host waits for Stopped only after it has set `stop` (10 R38). -/
def hostOk (s : State) : Prop := s.hstate = .waitStopped ∨ s.hstate = .waitBoth → s.stop = true

/-- The framebuffer is in its canonical form and its addresses are below `VRAM_BYTES` (10 R45); the dirty
bitmap is a strictly rising list of pages of the framebuffer (10 R46). -/
def memoryOk (s : State) : Prop :=
  Memory.wf s.fb ∧ (∀ c ∈ s.fb, c.1 < s.params.vramBytes) ∧
    s.dirty.Pairwise (· < ·) ∧ ∀ p ∈ s.dirty, p < pageCount s.params

/-- A waiting CPU-fed primitive is one that waits for a unit it can use (10 R43; 44 R290, R291): it has a
feed and a unit size of 1, 2 or 4 that holds whole pixels, pixels are left in its row and rows are
left. -/
def waitingOk (p : Params) (e : Ex) : Prop :=
  e.feed ≠ .none ∧ (e.u = 1 ∨ e.u = 2 ∨ e.u = 4) ∧ (e.feed = .colour → p.pb ∣ e.u) ∧ 0 < e.left ∧
    (e.cls ≠ .line → e.left ≤ e.w.toNat ∧ 0 ≤ e.rows)

/-- The engine's invariants: a waiting primitive is well formed and its stage not full; with none the
stage is empty (42 R230, R231); a count of pixels left is at most 4095 (44 R288). -/
def engineOk (s : State) : Prop :=
  (s.ex.active = true → waitingOk s.params s.ex ∧ s.regs.stageCnt < s.ex.u) ∧
    (s.ex.active = false → s.regs.stageCnt = 0) ∧ s.ex.left ≤ 4095

/-- The invariant of the block. -/
def inv (s : State) : Prop :=
  validParams s.params ∧ queueOk s ∧ consumerOk s ∧ producerOk s ∧ hostOk s ∧ memoryOk s ∧ engineOk s

/-- A safe step: the model fault of 60 R372 is not recorded. -/
def safeStep (s : State) : Prop := ∀ f, step s ≠ .fault f

/-- Several instructions one after another, each on the state the one before left. -/
def execAll : List Instr → State → Result
  | [], s => .next s
  | i :: l, s =>
    match exec i s with
    | .next t => execAll l t
    | .fault f => .fault f
    | .refused r => .refused r

/-- The bytes of one pixel: the `PB` bytes at `ADDR(X, Y)` (20 R74, 43 R266). -/
def pixelBytes (p : Params) (x y : Half) (a : Nat) : Prop := ∃ i < p.pb, a = (pixAddr p x y + i) % p.vramBytes

end Sys2Proof.Machine
end

