-- ==== Sys2Proof/Certificates/Slice0/Obligations.lean ====
section
/-! DEFINITION. The statements for the provers. A next state is written as the state before with the
fields it changes; every field not named, every register and every byte of memory among them, is then as
before. -/

open Sys2Proof Sys2Proof.Machine

/-! ## Encoding -/

/-- Tier 3. Every well-formed instruction's word decodes to it (30 R100 to R134; the packings of the rows
the spec gives no bits are the model's, log 15). -/
def Obligations.EncodeThenDecodeReturnsTheInstruction : Prop :=
  ∀ i : Instr, i.wf = true → decode (encode i).1 (encode i).2 = .ok i

/-- Tier 3. In one word space no two words are the same instruction: what a word decodes to encodes back
to the word and its space (30 R100 to R134; log 15). -/
def Obligations.DecodeThenEncodeReturnsTheWord : Prop :=
  ∀ (sp : WordSpace) (w : EntryWord) (i : Instr), decode sp w = .ok i → encode i = (sp, w)

/-- Tier 1. Words written out from the spec's encodings decode to their instructions: the examples of
41 R171, R182, 42 R210, R217, R220, 44 R306, 30 R112 and R113. The word spaces, and the bits of the byteWrite
and byteRead words, which the spec gives no bits, are the model's own (log 15); that a reserved entry type is
rejected under a name is the model's too (log 19). -/
def Obligations.SpecWordsDecode : Prop :=
  decode .entry 0x0A0086E800000123#64 = .ok (.entryOutWord 0x0086E8#24 0x00000123#32) ∧
  decode .entry 0x0A009AE800002000#64 = .ok (.entryOutWord 0x009AE8#24 0x00002000#32) ∧
  decode .entry 0x0300FFFCDEADBEEF#64 = .ok (.entryWriteDword 0x00FFFC#24 0xDEADBEEF#32) ∧
  decode .cmd 0x40F1#64 = .ok (.cmdRect 0x00F1#13) ∧
  decode .cmd 0x20A0#64 = .ok (.cmdLine 0x00A0#13) ∧
  decode .lineMode 0x20A8#64 = .ok (.cmdLineRadial 0x00A#9 0#3) ∧
  decode .cmd 0xC0A0#64 = .ok (.cmdBlit 0x00A0#13) ∧
  decode .cmd 0xE0A0#64 = .ok (.cmdPat 0x00A0#13) ∧
  decode .multifunc 0x3100#64 = .ok (.mfScissorsB 0x100#12) ∧
  decode .multifunc 0xA080#64 = .ok (.mfPixCntl 0x080#12) ∧
  decode .mix 0x0027#64 = .ok (.mixS 0x002#12) ∧
  decode .src 0x0027#64 = .ok (.srcFrgdColor 0#9 0x07#5) ∧
  decode .mixSel 0x0C0#64 = .ok (.mixselDisplayMemory 0#4 0#6) ∧
  decode .cmp 0x100#64 = .ok (.cmpNe 0#3 0#7) ∧
  decode .byteWrite 0x1340086E8#64 = .ok (.wCurX .port 0#2 0x34#8) ∧
  decode .byteWrite 0x0120086E9#64 = .ok (.wCurX .mapped 1#2 0x12#8) ∧
  decode .byteWrite 0x0AA007FFF#64 = .ok (.wPixTransWindow 0x7FFF#15 0xAA#8) ∧
  decode .byteRead 0x100009AE9#64 = .ok (.rGpStat .port 1#2) ∧
  decode .entry 0x0C00000000000000#64 = .error .reservedEntryType

/-! ## Steps -/

/-- Tier 1. A step runs the decoded instruction: the word at the head of the inputs, taken from them. With
no input, or with a word that has to wait, a step is an enabled step of an agent, the Consumer's first, then
the Producer's, then the Host's; if none is enabled the state stays (log 1, log 2, log 5, log 20). The Host's
framebuffer write and read and its clear of a dirty bit are taken whatever the agents wait in (20 R77,
R79): the write changes the byte at the address modulo `VRAM_BYTES` (20 R81) and marks no page, the read
returns that byte as it is, and the clear takes one page out of the dirty bits. -/
def Obligations.StepRunsTheDecodedInstruction : Prop :=
  ∀ s : State,
    (∀ (a : Nat) (b : Byte) (rest : List Input), s.inputs = .hostWrite a b :: rest → Memory.wf s.fb →
      ∃ fb : Memory, step s = .next { s with fb := fb, inputs := rest } ∧
        fb.read (a % s.params.vramBytes) = b ∧
        ∀ q, q ≠ a % s.params.vramBytes → fb.read q = s.fb.read q) ∧
    (∀ (a : Nat) (rest : List Input), s.inputs = .hostRead a :: rest →
      step s = .next { s with
        inputs := rest, out := { s.out with fbByte := some (s.fb.read (a % s.params.vramBytes)) } }) ∧
    (∀ (page : Nat) (rest : List Input), s.inputs = .clearDirty page :: rest →
      ∃ dirty : List Nat, step s = .next { s with dirty := dirty, inputs := rest } ∧
        ∀ q, q ∈ dirty ↔ q ∈ s.dirty ∧ q ≠ page) ∧
    (∀ (sp : WordSpace) (w : EntryWord) (rest : List Input) (i : Instr),
      s.inputs = .word sp w :: rest → decode sp w = .ok i → s.heldBack i = false →
      step s = exec i (s.withInputs rest)) ∧
    (s.inputs = [] ∨ (∃ sp w rest i,
        s.inputs = .word sp w :: rest ∧ decode sp w = .ok i ∧ s.heldBack i = true) →
      (∀ j, s.consumerStep = some j → step s = exec j s) ∧
      (∀ j, s.consumerStep = none → s.producerStep = some j → step s = exec j s) ∧
      (∀ j, s.consumerStep = none → s.producerStep = none → s.hostStep = some j → step s = exec j s) ∧
      (s.consumerStep = none → s.producerStep = none → s.hostStep = none → step s = .next s))

/-- Tier 1. The word placed by `withFetchWord` is what the next step runs, on the state it was placed in
(log 16, log 17). -/
def Obligations.FetchedWordRuns : Prop :=
  ∀ (s : State) (nbits w : Nat) (i : Instr),
    decodeTableWord nbits w = some i → s.heldBack i = false →
      step (s.withFetchWord nbits w) = exec i s

/-! ## Construction and the invariant -/

/-- Tier 1. The state after construction (70 R401, 10 R50; the class of the idle engine is the model's
choice, log 14). -/
def Obligations.ConstructionSetsEveryValue : Prop :=
  ∀ (p : Params) (picture : Memory) (pages : List Nat),
    let s := State.construct p picture pages
    (∀ k < p.qcap, s.slot k = 0#64) ∧ s.queue.slots.length = p.qcap ∧ s.queue.rd = 0 ∧ s.queue.wr = 0 ∧
    s.wakePending = false ∧ s.stop = false ∧ s.cstate = .idle ∧ s.busy = false ∧ s.pstate = .ready ∧
    s.regs.curY = 0#16 ∧ s.regs.curX = 0#16 ∧ s.regs.destyAxstp = 0#16 ∧ s.regs.destxDiastp = 0#16 ∧
    s.regs.errTerm = 0#16 ∧ s.regs.majAxisPcnt = 0#12 ∧ s.regs.cmd = 0#16 ∧ s.regs.shortStroke = 0#16 ∧
    s.regs.bkgdColor = 0#32 ∧ s.regs.frgdColor = 0#32 ∧ s.regs.wrtMask = 0#32 ∧ s.regs.rdMask = 0#32 ∧
    s.regs.colorCmp = 0#32 ∧ s.regs.bkgdMix = 0#16 ∧ s.regs.frgdMix = 0#16 ∧ s.regs.mfLatch = 0#16 ∧
    (∀ i : BitVec 4, s.regs.mfAt i = 0#12) ∧ (∀ i : Fin 4, s.regs.stage[i] = 0#8) ∧
    s.regs.stageCnt = 0 ∧
    s.ex.active = false ∧ s.ex.feed = .none ∧ s.ex.cmd = 0#16 ∧ s.ex.ms = 0#2 ∧ s.ex.u = 0 ∧
    s.ex.x = 0#16 ∧ s.ex.y = 0#16 ∧ s.ex.x0 = 0#16 ∧ s.ex.sx = 0#16 ∧ s.ex.sy = 0#16 ∧
    s.ex.sx0 = 0#16 ∧ s.ex.tx = 0#16 ∧ s.ex.ty = 0#16 ∧ s.ex.px = 0#3 ∧ s.ex.py = 0#3 ∧
    s.ex.px0 = 0#3 ∧ s.ex.left = 0 ∧ s.ex.w = 0#12 ∧ s.ex.rows = 0 ∧ s.ex.err = 0#16 ∧
    s.ex.maj = 0#12 ∧ s.ex.ax = 0#16 ∧ s.ex.dia = 0#16 ∧
    s.fb = picture ∧ s.dirty = pages ∧ s.params = p

/-- Tier 1. Construction meets the invariant, whatever the Host's parameters and the free contents, and so
does the reset state of the model (log 7, log 8). -/
def Obligations.ConstructionMeetsTheInvariant : Prop :=
  inv State.reset ∧
  ∀ (p : Params) (picture : Memory) (pages : List Nat),
    validParams p → Memory.wf picture → (∀ c ∈ picture, c.1 < p.vramBytes) →
      pages.Pairwise (· < ·) → (∀ q ∈ pages, q < pageCount p) → inv (State.construct p picture pages)

/-- Tier 3. Every step keeps the parameters admitted, the framebuffer canonical and inside `VRAM_BYTES`,
and the dirty bitmap a rising list of its pages (00 R9, 10 R45, R46). -/
def Obligations.StepKeepsMemoryCanonical : Prop :=
  ∀ s t : State, validParams s.params → memoryOk s → step s = .next t →
    validParams t.params ∧ memoryOk t

/-- Tier 3. Every step keeps the queue invariant (10 R32). -/
def Obligations.StepKeepsTheQueueInvariant : Prop :=
  ∀ s t : State, inv s → step s = .next t → queueOk t

/-- Tier 3. Every step keeps the invariants of the Consumer, the wake invariant of 40 R157 among them, of
the Producer and of the Host. -/
def Obligations.StepKeepsTheAgentsInvariants : Prop :=
  ∀ s t : State, inv s → step s = .next t → consumerOk t ∧ producerOk t ∧ hostOk t

/-- Tier 3. Every step keeps the engine's invariants: a waiting primitive can use the next unit, and the
stage holds less than a unit (42 R230, R231; 44 R290). -/
def Obligations.StepKeepsTheEngineInvariant : Prop :=
  ∀ s t : State, inv s → step s = .next t → engineOk t

/-- Tier 3. From a state with the invariant neither an instruction nor a step records the model fault
(40 R154, 60 R372). In two kinds of states no run reaches, whose cursors break 10 R32, the fault records the
cursors before the step. That 40 R153 and R151 are enabled there is the model's choice: a write cursor below
the read cursor counts as not empty (log 4), more than `QCAP` entries count as not full (log 26). -/
def Obligations.InvariantExcludesTheModelFault : Prop :=
  (∀ s : State, inv s → safeStep s ∧ ∀ (i : Instr) (f : Fault), exec i s ≠ .fault f) ∧
  (∀ s : State, s.cstate = .draining → s.queue.wr < s.queue.rd →
    exec .dequeueExecute s = .fault (.queueInvariant s.queue.rd s.queue.wr)) ∧
  (∀ (s : State) (e : EntryWord) (rest : List EntryWord), s.pstate = .waitRoom false (e :: rest) →
    s.params.qcap < s.queue.wr - s.queue.rd →
    exec .enqueue s = .fault (.queueInvariant s.queue.rd s.queue.wr))

/-! ## The queue -/

/-- Tier 3. FIFO (40 R155, 10 R33): an instruction that completes leaves the queued entries as they are,
or it is a write access, ENQUEUE or ENQUEUE.FULL and adds one entry at the end, or it is DEQUEUE-EXECUTE
and takes the oldest away. -/
def Obligations.QueueIsFirstInFirstOut : Prop :=
  ∀ (i : Instr) (s t : State), validParams s.params → queueOk s → exec i s = .next t →
    t.contents = s.contents ∨
    ((∃ e, t.contents = s.contents ++ [e]) ∧
      (i = .enqueue ∨ i = .enqueueFull ∨ (∃ o v, i = .write8 o v) ∨ (∃ o v, i = .write16 o v) ∨
        (∃ o v, i = .write32 o v) ∨ (∃ p v, i = .out8 p v) ∨ (∃ p v, i = .out16 p v) ∨
        (∃ p v, i = .out32 p v))) ∨
    (i = .dequeueExecute ∧ ∃ e, s.contents = e :: t.contents)

/-- Tier 2. ENQUEUE with room (40 R151): the slot of the write cursor takes the head entry of the access,
the cursor advances, and the Consumer is woken above the high and below the low mark; what is left of the
access is still to be enqueued (41 R172). The flag of WaitRoom is the model's (log 6): a held access, whose
hold `stop` has not lifted, is enqueued in the same way; one whose hold `stop` has lifted is not (log 28). -/
def Obligations.EnqueueWithRoom : Prop :=
  ∀ (s : State) (held : Bool) (e : EntryWord) (rest : List EntryWord),
    validParams s.params → queueOk s → s.pstate = .waitRoom held (e :: rest) →
    s.queue.wr - s.queue.rd < s.params.qcap →
    (held = true → s.stop = true → exec .enqueue s = .next s) ∧
    (held = false ∨ s.stop = false → exec .enqueue s = .next { s with
      queue := { s.queue with
        slots := s.queue.slots.set (s.queue.wr &&& (s.params.qcap - 1)) e, wr := s.queue.wr + 1 }
      wakePending := s.wakePending ||
        decide (s.queue.wr + 1 - s.queue.rd > s.params.qcap - s.params.qcap / 8 ∨
          s.queue.wr + 1 - s.queue.rd < 8)
      pstate := if rest = [] then .ready else .waitRoom false rest })

/-- Tier 2. ENQUEUE on a full queue (40 R152): it sets `wake_pending` and holds; the hold ends by `stop`,
which discards the rest of the access, or by room, which lets 40 R151 go on. The flag of WaitRoom that tells
the hold from the pause between two ENQUEUEs is the model's (log 6). -/
def Obligations.EnqueueOnAFullQueue : Prop :=
  ∀ (s : State) (e : EntryWord) (rest : List EntryWord), validParams s.params → queueOk s →
    (s.pstate = .waitRoom false (e :: rest) → s.queue.wr - s.queue.rd = s.params.qcap →
      exec .enqueueFull s = .next { s with wakePending := true, pstate := .waitRoom true (e :: rest) }) ∧
    (s.pstate = .waitRoom true (e :: rest) → s.stop = true →
      exec .enqueueFull s = .next { s with pstate := .ready }) ∧
    (s.pstate = .waitRoom true (e :: rest) → s.stop = false →
      s.queue.wr - s.queue.rd = s.params.qcap → exec .enqueueFull s = .next s) ∧
    (s.pstate = .waitRoom true (e :: rest) → s.stop = false →
      s.queue.wr - s.queue.rd < s.params.qcap →
      exec .enqueueFull s = .next { s with
        queue := { s.queue with
          slots := s.queue.slots.set (s.queue.wr &&& (s.params.qcap - 1)) e, wr := s.queue.wr + 1 }
        wakePending := s.wakePending ||
          decide (s.queue.wr + 1 - s.queue.rd > s.params.qcap - s.params.qcap / 8 ∨
            s.queue.wr + 1 - s.queue.rd < 8)
        pstate := if rest = [] then .ready else .waitRoom false rest })

/-- Tier 2. DEQUEUE-EXECUTE (40 R153): the head entry is executed to its end, then its slot is Invalid and
the read cursor advances by one, all in one step. -/
def Obligations.DequeueExecutesTheHeadEntry : Prop :=
  ∀ (s : State) (i : Instr), validParams s.params → queueOk s → s.cstate = .draining →
    s.queue.rd < s.queue.wr →
    decode .entry (s.slot (s.queue.rd &&& (s.params.qcap - 1))) = .ok i →
    ∃ u, exec i s = .next u ∧
      exec .dequeueExecute s = .next { u with
        queue := { s.queue with
          slots := s.queue.slots.set (s.queue.rd &&& (s.params.qcap - 1)) 0#64, rd := s.queue.rd + 1 } }

/-- Tier 1. WAKE (41 R180). -/
def Obligations.WakeStartsDraining : Prop :=
  ∀ s : State, s.cstate = .idle → s.wakePending = true → s.stop = false →
    exec .wake s = .next { s with wakePending := false, cstate := .draining, busy := true }

/-- Tier 1. EMPTY (41 R183). -/
def Obligations.EmptyReturnsToIdle : Prop :=
  ∀ s : State, s.cstate = .draining → s.queue.wr = s.queue.rd →
    exec .empty s = .next { s with busy := false, cstate := .idle }

/-- Tier 1. STOP (41 R184); `Stopped` has no further Consumer step. -/
def Obligations.StopEndsTheConsumer : Prop :=
  (∀ s : State, s.cstate = .idle → s.wakePending = true → s.stop = true →
    exec .stop s = .next { s with wakePending := false, cstate := .stopped }) ∧
  ∀ s : State, s.cstate = .stopped → s.consumerStep = none

/-- Tier 1. The Consumer suspends only in Idle; in Draining exactly one of DEQUEUE-EXECUTE (not empty) and
EMPTY (empty) is enabled (41 R185). -/
def Obligations.DrainingHasOneEnabledStep : Prop :=
  ∀ s : State, queueOk s →
    (s.cstate = .draining → 0 < s.occupancy → s.consumerStep = some .dequeueExecute) ∧
    (s.cstate = .draining → s.occupancy = 0 → s.consumerStep = some .empty) ∧
    (s.consumerStep = some .wake → s.cstate = .idle ∧ s.wakePending = true ∧ s.stop = false) ∧
    (s.consumerStep = none → s.cstate ≠ .draining)

/-- Tier 2. Who may change what (10 R33, R34, R35, R37, R49; 60 R383): `stop` changes only by CLOSE,
`wake_pending` is cleared only by WAKE and STOP, the read cursor moves only by DEQUEUE-EXECUTE and the write
cursor only by the six write accesses, ENQUEUE and ENQUEUE.FULL, the Consumer's state changes only by its own
steps and never from Stopped, and the parameters only by CONFIG. -/
def Obligations.SignalsChangeOnlyByTheirOwners : Prop :=
  ∀ (i : Instr) (s t : State), exec i s = .next t →
    (t.stop ≠ s.stop → i = .close) ∧
    (s.wakePending = true → t.wakePending = false → i = .wake ∨ i = .stop) ∧
    (t.queue.rd ≠ s.queue.rd → i = .dequeueExecute) ∧
    (t.queue.wr ≠ s.queue.wr →
      i = .enqueue ∨ i = .enqueueFull ∨ (∃ o v, i = .write8 o v) ∨ (∃ o v, i = .write16 o v) ∨
        (∃ o v, i = .write32 o v) ∨ (∃ p v, i = .out8 p v) ∨ (∃ p v, i = .out16 p v) ∨
        (∃ p v, i = .out32 p v)) ∧
    (t.cstate ≠ s.cstate ∨ t.busy ≠ s.busy → i = .wake ∨ i = .empty ∨ i = .stop) ∧
    (s.cstate = .stopped → t.cstate = .stopped) ∧
    (t.params ≠ s.params → ∃ pb pitch vramBytes, i = .config pb pitch vramBytes)

/-! ## The Producer -/

/-- Tier 2. The six write accesses (41 R170 to R173): an access whose first byte is a pixel-transfer byte
becomes one byte entry per byte, any other becomes one entry of its width. With room the first entry is
enqueued as 40 R151 says, and the others follow; on a full queue the access holds (40 R152). -/
def Obligations.WriteAccessesEnqueueTheirEntries : Prop :=
  ∀ (s : State) (o : BitVec 24) (p : BitVec 16) (v : Word), validParams s.params → queueOk s →
    s.pstate = .ready → s.cstate ≠ .stopped →
    ∀ (i : Instr) (sp : BusSpace) (code : BitVec 8) (w : Nat),
      (i, sp, code, w) ∈ [(Instr.write8 o v, BusSpace.mapped, 0x01#8, 1),
        (.write16 o v, .mapped, 0x02#8, 2), (.write32 o v, .mapped, 0x03#8, 4),
        (.out8 p v, .port, 0x09#8, 1), (.out16 p v, .port, 0x0A#8, 2), (.out32 p v, .port, 0x0B#8, 4)] →
    ∀ (first : ByteAddr) (field : Nat → BitVec 24) (byteCode : BitVec 8),
      (sp = .mapped ∧ first = .mapped o.toNat ∧ field = (fun k => o + BitVec.ofNat 24 k) ∧
          byteCode = 0x01#8 ∨
        sp = .port ∧ first = .port p ∧ field = (fun k => (p + BitVec.ofNat 16 k).setWidth 24) ∧
          byteCode = 0x09#8) →
    ∀ entries : List EntryWord,
      ((∃ lane, decodeAddr first = .pixel lane) ∧
          entries = (List.range w).map (fun k =>
            packEntry byteCode (field k) ((v.extractLsb' (8 * k) 8).setWidth 32)) ∨
        (¬ ∃ lane, decodeAddr first = .pixel lane) ∧
          entries = [packEntry code (field 0) (BitVec.ofNat 32 (v.toNat % 2 ^ (8 * w)))]) →
    ∃ e rest, entries = e :: rest ∧
      (s.queue.wr - s.queue.rd < s.params.qcap →
        exec i s = .next { s with
          queue := { s.queue with
            slots := s.queue.slots.set (s.queue.wr &&& (s.params.qcap - 1)) e, wr := s.queue.wr + 1 }
          wakePending := s.wakePending ||
            decide (s.queue.wr + 1 - s.queue.rd > s.params.qcap - s.params.qcap / 8 ∨
              s.queue.wr + 1 - s.queue.rd < 8)
          pstate := if rest = [] then .ready else .waitRoom false rest }) ∧
      (s.queue.wr - s.queue.rd = s.params.qcap →
        exec i s = .next { s with wakePending := true, pstate := .waitRoom true entries })

/-- Tier 2. The reads (41 R176, 45 R350, R352): a read whose bytes are all CMD-slot bytes, pixel-transfer
bytes or no register's returns at once and wakes an idle Consumer; any other returns at once on an empty
queue, and else waits for the queue to drain. The value has the bytes READ-BYTE gives, low byte first. -/
def Obligations.ReadAccessesReturnOrWait : Prop :=
  ∀ (s : State) (o : BitVec 24) (p : BitVec 16), s.pstate = .ready → s.cstate ≠ .stopped →
    ∀ (i : Instr) (a : Access) (w : Nat),
      (i, a, w) ∈ [(Instr.read8 o, (⟨.mapped, o, .w1⟩ : Access), 1), (.read16 o, ⟨.mapped, o, .w2⟩, 2),
        (.read32 o, ⟨.mapped, o, .w4⟩, 4), (.in8 p, ⟨.port, p.setWidth 24, .w1⟩, 1),
        (.in16 p, ⟨.port, p.setWidth 24, .w2⟩, 2), (.in32 p, ⟨.port, p.setWidth 24, .w4⟩, 4)] →
    ∀ addr : Nat → ByteAddr,
      (a.space = .mapped ∧ addr = (fun k => .mapped (o.toNat + k)) ∨
        a.space = .port ∧ addr = (fun k => .port (p + BitVec.ofNat 16 k))) →
    ∃ v : Word, (∀ k < w, byteOf v k = s.readByte (decodeAddr (addr k))) ∧ v.toNat < 2 ^ (8 * w) ∧
      ((∀ k < w, ∀ r lane, decodeAddr (addr k) = .reg r lane → r = .cmd) →
        exec i s = .next { s with
          wakePending := s.wakePending || decide (s.cstate = .idle)
          out := { s.out with busData := some v } } ∧
        exec (.statusRead a) s = exec i s) ∧
      ((∃ k < w, ∃ r lane, decodeAddr (addr k) = .reg r lane ∧ r ≠ .cmd) →
        (s.occupancy = 0 → exec i s = .next { s with out := { s.out with busData := some v } }) ∧
        (0 < s.occupancy → exec i s = .next { s with wakePending := true, pstate := .waitDrain a }) ∧
        exec (.drainedRead a) s = exec i s)

/-- Tier 2. A waiting drained read (45 R352) returns in the step that finds the queue empty or `stop` set,
and otherwise stays. -/
def Obligations.WaitingReadReturnsWhenDrained : Prop :=
  ∀ (s : State) (a : Access), s.pstate = .waitDrain a →
    (s.occupancy = 0 ∨ s.stop = true →
      ∃ v : Word, (∀ k < a.width.bytes, byteOf v k = s.readByte (decodeAddr (byteAddrAt a.space a.addr k))) ∧
        v.toNat < 2 ^ (8 * a.width.bytes) ∧
        exec (.drainedRead a) s = .next { s with
          out := { s.out with busData := some v }, pstate := .ready }) ∧
    (0 < s.occupancy → s.stop = false → exec (.drainedRead a) s = .next s)

/-- Tier 2. One byte of a register, read with an empty queue (42 R240 to R242, 30 R111, 45 R352): the bits
of its lane of the stored value, 0x00 in an unused lane; the multifunction read is the selected slot's
number and value. -/
def Obligations.RegisterReadsReturnTheirLane : Prop :=
  ∀ (s : State) (sp : BusSpace) (lane : BitVec 2), s.pstate = .ready → s.cstate ≠ .stopped →
    s.occupancy = 0 →
    ∀ (i : Instr) (bits : Word),
      (i, bits) ∈ [(Instr.rCurY sp lane, s.regs.curY.setWidth 32), (.rCurX sp lane, s.regs.curX.setWidth 32),
        (.rDestyAxstp sp lane, s.regs.destyAxstp.setWidth 32),
        (.rDestxDiastp sp lane, s.regs.destxDiastp.setWidth 32),
        (.rErrTerm sp lane, s.regs.errTerm.setWidth 32),
        (.rMajAxisPcnt sp lane, s.regs.majAxisPcnt.setWidth 32),
        (.rShortStroke sp lane, s.regs.shortStroke.setWidth 32),
        (.rBkgdColor sp lane, s.regs.bkgdColor), (.rFrgdColor sp lane, s.regs.frgdColor),
        (.rWrtMask sp lane, s.regs.wrtMask), (.rRdMask sp lane, s.regs.rdMask),
        (.rColorCmp sp lane, s.regs.colorCmp), (.rBkgdMix sp lane, s.regs.bkgdMix.setWidth 32),
        (.rFrgdMix sp lane, s.regs.frgdMix.setWidth 32),
        (.rMultifunc sp lane, BitVec.ofNat 32 (4096 * (s.regs.mf[15].toNat % 16) +
          (s.regs.mfAt (s.regs.mf[15].setWidth 4)).toNat))] →
      exec i s = .next { s with out := { s.out with
        busData := some (BitVec.ofNat 32 (bits.toNat / 2 ^ (8 * lane.toNat) % 256)) } }

/-- Tier 2. The reads that never wait (45 R350, R351, 42 R240): a byte of GP_STAT; 0xFF from PIX_TRANS, its
window and where no register is. They wake an idle Consumer. -/
def Obligations.SynchronousReadsReturnAtOnce : Prop :=
  ∀ (s : State) (sp : BusSpace) (lane : BitVec 2) (o : BitVec 15) (a : ByteAddr),
    s.pstate = .ready → s.cstate ≠ .stopped → noneAddrWf a = true →
    ∀ (i : Instr) (byte : Nat),
      (i, byte) ∈ [(Instr.rGpStat sp lane,
          ((if s.occupancy = s.params.qcap then 0xFF else 0) +
            (if s.busy = true ∨ 0 < s.occupancy then 0x200 else 0)) / 2 ^ (8 * lane.toNat) % 256),
        (.rPixTrans sp lane, 0xFF), (.rPixTransWindow o, 0xFF), (.rNone a, 0xFF)] →
      exec i s = .next { s with
        wakePending := s.wakePending || decide (s.cstate = .idle)
        out := { s.out with busData := some (BitVec.ofNat 32 byte) } }

/-- Tier 1. GP_STAT (30 R136): bits 7:0 for full, bit 9 for busy or not empty, every other bit 0; lanes 2
and 3 of the CMD slot read 0x00. -/
def Obligations.StatusWordFields : Prop :=
  ∀ s : State,
    s.gpStat.extractLsb' 0 8 = (if s.occupancy = s.params.qcap then 0xFF#8 else 0x00#8) ∧
    s.gpStat.getLsbD 9 = decide (s.busy = true ∨ 0 < s.occupancy) ∧
    s.gpStat.getLsbD 8 = false ∧ s.gpStat.extractLsb' 10 6 = 0#6 ∧
    s.readByte (.reg .cmd 0#2) = s.gpStat.extractLsb' 0 8 ∧
    s.readByte (.reg .cmd 1#2) = s.gpStat.extractLsb' 8 8 ∧
    s.readByte (.reg .cmd 2#2) = 0x00#8 ∧ s.readByte (.reg .cmd 3#2) = 0x00#8

/-- Tier 2. Polling (45 R357, R358): the status read completes; a status word with bit 9 clear means an
empty queue; one with bits 7:0 = 0xFF means that the next write access would hold the Producer. -/
def Obligations.StatusPollingIsSound : Prop :=
  ∀ s : State, validParams s.params → queueOk s → s.pstate = .ready → s.cstate ≠ .stopped →
    ∃ (t : State) (v : Word), exec (.in16 0x9AE8#16) s = .next t ∧ t.out.busData = some v ∧
      (v.getLsbD 9 = false → s.queue.wr = s.queue.rd) ∧
      (v.extractLsb' 0 8 = 0xFF#8 → ∀ (p : BitVec 16) (x : Word),
        ∃ (u : State) (entries : List EntryWord),
          exec (.out8 p x) t = .next u ∧ u.pstate = .waitRoom true entries ∧ u.queue = s.queue) ∧
      (v.extractLsb' 0 8 = 0x00#8 → s.queue.wr - s.queue.rd < s.params.qcap)

/-- Tier 1. What the model refuses (41 R170, R186, 45 R350, R352, 00 R9, 70 R414): every access after
close; every access while the Producer is not Ready, but the waiting read itself; STATUS-READ of a drained
access and DRAINED-READ of a synchronous one; CONFIG outside its ranges or while the block works, unless the
Host waits in close, where CONFIG has no step (log 20). -/
def Obligations.OperationsThatCannotBeIssuedAreRefused : Prop :=
  (∀ (s : State) (i : Instr), isAccess i = true → s.cstate = .stopped →
    (∀ a, i ≠ .statusRead a) → (∀ a, i ≠ .drainedRead a) → exec i s = .refused .closed) ∧
  (∀ (s : State) (i : Instr), isAccess i = true → s.cstate ≠ .stopped → s.pstate ≠ .ready →
    (∀ a, s.pstate = .waitDrain a → i ≠ .drainedRead a) → exec i s = .refused .cannotIssue) ∧
  (∀ (s : State) (a : Access), a.isSynchronous = false → exec (.statusRead a) s = .refused .cannotIssue) ∧
  (∀ (s : State) (a : Access), a.isSynchronous = true → s.pstate ≠ .waitDrain a →
    exec (.drainedRead a) s = .refused .cannotIssue) ∧
  (∀ (s : State) (pb pitch vram : Nat), s.hstate = .ready ∨ s.hstate = .waitIdle →
    0 < s.occupancy ∨ s.cstate = .draining →
    exec (.config pb pitch vram) s = .refused .configWhileBusy) ∧
  (∀ (s : State) (pb pitch vram : Nat), s.hstate = .ready ∨ s.hstate = .waitIdle →
    s.occupancy = 0 →
    s.cstate ≠ .draining →
    ¬ ((pb = 1 ∨ pb = 2 ∨ pb = 4) ∧ 1 ≤ pitch ∧ pitch ≤ 4096 ∧ ∃ k, 16 ≤ k ∧ k ≤ 24 ∧ vram = 2 ^ k) →
    exec (.config pb pitch vram) s = .refused .badConfiguration)

/-- Tier 2. Only the Consumer writes the registers, the engine, the framebuffer and the dirty bits (10 R39,
20 R70): a Producer access, ENQUEUE, ENQUEUE.FULL, WAIT-IDLE, REPORT-UTILIZATION and CLOSE leave them, and
the parameters, as they are. -/
def Obligations.ProducerAndHostCallsWriteNoRegister : Prop :=
  ∀ (i : Instr) (s t : State),
    isAccess i = true ∨ i ∈ [Instr.enqueue, .enqueueFull, .waitIdle, .reportUtilization, .close] →
    exec i s = .next t →
    t.regs = s.regs ∧ t.ex = s.ex ∧ t.fb = s.fb ∧ t.dirty = s.dirty ∧ t.params = s.params ∧
      t.queue.rd = s.queue.rd

/-! ## The Host -/

/-- Tier 1. WAIT-IDLE (45 R354): called, it sets `wake_pending` on a queue that is not empty and returns at
once or holds; held, it returns when the queue is empty and the Consumer is not Draining, or it is
Stopped, or `stop` is set, with close still waiting if it was called meanwhile (92 D44). That the Host's
position is kept is the model's, and so is that a Host in close takes no WAIT-IDLE (log 20). -/
def Obligations.WaitIdleHoldsUntilIdle : Prop :=
  ∀ s : State,
    (s.hstate = .ready →
      (s.occupancy = 0 ∧ s.cstate ≠ .draining) ∨ s.cstate = .stopped ∨ s.stop = true →
      exec .waitIdle s = .next { s with wakePending := s.wakePending || decide (0 < s.occupancy) }) ∧
    (s.hstate = .ready →
      ¬ ((s.occupancy = 0 ∧ s.cstate ≠ .draining) ∨ s.cstate = .stopped ∨ s.stop = true) →
      exec .waitIdle s = .next { s with
        wakePending := s.wakePending || decide (0 < s.occupancy), hstate := .waitIdle }) ∧
    (s.hstate = .waitIdle →
      (s.occupancy = 0 ∧ s.cstate ≠ .draining) ∨ s.cstate = .stopped ∨ s.stop = true →
      exec .waitIdle s = .next { s with hstate := .ready }) ∧
    (s.hstate = .waitIdle →
      ¬ ((s.occupancy = 0 ∧ s.cstate ≠ .draining) ∨ s.cstate = .stopped ∨ s.stop = true) →
      exec .waitIdle s = .next s) ∧
    (s.hstate = .waitBoth →
      (s.occupancy = 0 ∧ s.cstate ≠ .draining) ∨ s.cstate = .stopped ∨ s.stop = true →
      exec .waitIdle s = .next { s with hstate := .waitStopped }) ∧
    (s.hstate = .waitBoth →
      ¬ ((s.occupancy = 0 ∧ s.cstate ≠ .draining) ∨ s.cstate = .stopped ∨ s.stop = true) →
      exec .waitIdle s = .next s) ∧
    (s.hstate = .waitStopped → exec .waitIdle s = .next s)

/-- Tier 1. REPORT-UTILIZATION, called by a Host that is not held, returns a natural number and writes no
state of the spec's (45 R356); the number is a free value (log 11). While the Host holds in WAIT-IDLE or close
it has no such step (00 R14), which the model takes to be one that leaves the state (log 20). -/
def Obligations.ReportUtilizationReturnsANumber : Prop :=
  ∀ s : State,
    (s.hstate = .ready → ∃ n : Nat,
      exec .reportUtilization s = .next { s with
        out := { s.out with utilization := some n }, freeCtr := s.freeCtr + 1 }) ∧
    (s.hstate ≠ .ready → exec .reportUtilization s = .next s)

/-- Tier 2. CONFIG (70 R414) with values 00 R9 admits, on an empty queue with the Consumer not Draining: the
three values are set, a waiting primitive is abandoned, no register changes, and the picture stays unless
its size changes; then it and the dirty bits are free contents of the new size (log 10). -/
def Obligations.ConfigSetsTheParameters : Prop :=
  ∀ (s : State) (pb pitch k : Nat), s.hstate = .ready → s.occupancy = 0 → s.cstate ≠ .draining →
    (pb = 1 ∨ pb = 2 ∨ pb = 4) → 1 ≤ pitch → pitch ≤ 4096 → 16 ≤ k → k ≤ 24 →
    ∃ (fb : Memory) (dirty : List Nat) (ctr : Nat),
      exec (.config pb pitch (2 ^ k)) s = .next { s with
        params := { s.params with pb := pb, pitch := pitch, vramBytes := 2 ^ k }
        ex := { s.ex with active := false }
        regs := { s.regs with stageCnt := if s.ex.active = true then 0 else s.regs.stageCnt }
        fb := fb, dirty := dirty, freeCtr := ctr } ∧
      (s.params.vramBytes = 2 ^ k → fb = s.fb ∧ dirty = s.dirty) ∧
      (s.params.vramBytes ≠ 2 ^ k → Memory.wf fb ∧ (∀ c ∈ fb, c.1 < 2 ^ k) ∧
        dirty.Pairwise (· < ·) ∧ ∀ q ∈ dirty, q < 2 ^ k / 4096)

/-- Tier 1. CLOSE (10 R38): it sets `stop` and `wake_pending` and waits until the Consumer is Stopped. While
WAIT-IDLE holds it does the same, and its `stop` lifts that hold (45 R354, 92 D44). That the Host's position is
kept, and its two waits apart, is the model's (log 20). -/
def Obligations.CloseSetsStopAndWaits : Prop :=
  ∀ s : State,
    (s.hstate = .ready → s.cstate ≠ .stopped →
      exec .close s = .next { s with stop := true, wakePending := true, hstate := .waitStopped }) ∧
    (s.hstate = .ready → s.cstate = .stopped →
      exec .close s = .next { s with stop := true, wakePending := true }) ∧
    (s.hstate = .waitStopped → s.cstate = .stopped → exec .close s = .next { s with hstate := .ready }) ∧
    (s.hstate = .waitStopped → s.cstate ≠ .stopped → exec .close s = .next s) ∧
    (s.hstate = .waitIdle → s.cstate ≠ .stopped →
      exec .close s = .next { s with stop := true, wakePending := true, hstate := .waitBoth }) ∧
    (s.hstate = .waitIdle → s.cstate = .stopped →
      exec .close s = .next { s with stop := true, wakePending := true }) ∧
    (s.hstate = .waitBoth → s.cstate = .stopped → exec .close s = .next { s with hstate := .waitIdle }) ∧
    (s.hstate = .waitBoth → s.cstate ≠ .stopped → exec .close s = .next s)

/-! ## The register file -/

/-- Tier 2. CUR_Y, CUR_X (42 R204, R205) and MAJ_AXIS_PCNT (42 R209): the byte is merged in and the low 12
bits are kept. -/
def Obligations.TwelveBitRegisterWrites : Prop :=
  ∀ (s : State) (sp : BusSpace) (lane : BitVec 2) (b : Byte), lane.toNat < 2 →
    (∃ v : Half, exec (.wCurY sp lane b) s = .next { s with regs := { s.regs with curY := v } } ∧
      ∀ k < 16, v.getLsbD k = (decide (k < 12) &&
        if k / 8 = lane.toNat then b.getLsbD (k % 8) else s.regs.curY.getLsbD k)) ∧
    (∃ v : Half, exec (.wCurX sp lane b) s = .next { s with regs := { s.regs with curX := v } } ∧
      ∀ k < 16, v.getLsbD k = (decide (k < 12) &&
        if k / 8 = lane.toNat then b.getLsbD (k % 8) else s.regs.curX.getLsbD k)) ∧
    (∃ v : Slot12,
      exec (.wMajAxisPcnt sp lane b) s = .next { s with regs := { s.regs with majAxisPcnt := v } } ∧
      ∀ k < 12, v.getLsbD k =
        if k / 8 = lane.toNat then b.getLsbD (k % 8) else s.regs.majAxisPcnt.getLsbD k)

/-- Tier 2. DESTY_AXSTP, DESTX_DIASTP and ERR_TERM (42 R206 to R208): the byte is merged in, the low 14 bits
are kept and bit 13 is copied above them. -/
def Obligations.FourteenBitRegisterWrites : Prop :=
  ∀ (s : State) (sp : BusSpace) (lane : BitVec 2) (b : Byte), lane.toNat < 2 →
    (∃ v : Half,
      exec (.wDestyAxstp sp lane b) s = .next { s with regs := { s.regs with destyAxstp := v } } ∧
      ∀ k < 16, v.getLsbD k =
        if min k 13 / 8 = lane.toNat then b.getLsbD (min k 13 % 8)
        else s.regs.destyAxstp.getLsbD (min k 13)) ∧
    (∃ v : Half,
      exec (.wDestxDiastp sp lane b) s = .next { s with regs := { s.regs with destxDiastp := v } } ∧
      ∀ k < 16, v.getLsbD k =
        if min k 13 / 8 = lane.toNat then b.getLsbD (min k 13 % 8)
        else s.regs.destxDiastp.getLsbD (min k 13)) ∧
    (∃ v : Half, exec (.wErrTerm sp lane b) s = .next { s with regs := { s.regs with errTerm := v } } ∧
      ∀ k < 16, v.getLsbD k =
        if min k 13 / 8 = lane.toNat then b.getLsbD (min k 13 % 8)
        else s.regs.errTerm.getLsbD (min k 13))

/-- Tier 2. The registers that keep the merged value: SHORT_STROKE (42 R211, R218), the mix registers (42
R217) and the five 32-bit registers (42 R212 to R216). -/
def Obligations.MergedRegisterWrites : Prop :=
  ∀ (s : State) (sp : BusSpace) (lane : BitVec 2) (b : Byte),
    (lane.toNat < 2 →
      (∃ v : Half,
        exec (.wShortStroke sp lane b) s = .next { s with regs := { s.regs with shortStroke := v } } ∧
        ∀ k < 16, v.getLsbD k =
          if k / 8 = lane.toNat then b.getLsbD (k % 8) else s.regs.shortStroke.getLsbD k) ∧
      (∃ v : Half, exec (.wBkgdMix sp lane b) s = .next { s with regs := { s.regs with bkgdMix := v } } ∧
        ∀ k < 16, v.getLsbD k =
          if k / 8 = lane.toNat then b.getLsbD (k % 8) else s.regs.bkgdMix.getLsbD k) ∧
      (∃ v : Half, exec (.wFrgdMix sp lane b) s = .next { s with regs := { s.regs with frgdMix := v } } ∧
        ∀ k < 16, v.getLsbD k =
          if k / 8 = lane.toNat then b.getLsbD (k % 8) else s.regs.frgdMix.getLsbD k)) ∧
    (∃ v : Word, exec (.wBkgdColor sp lane b) s = .next { s with regs := { s.regs with bkgdColor := v } } ∧
      ∀ k < 32, v.getLsbD k =
        if k / 8 = lane.toNat then b.getLsbD (k % 8) else s.regs.bkgdColor.getLsbD k) ∧
    (∃ v : Word, exec (.wFrgdColor sp lane b) s = .next { s with regs := { s.regs with frgdColor := v } } ∧
      ∀ k < 32, v.getLsbD k =
        if k / 8 = lane.toNat then b.getLsbD (k % 8) else s.regs.frgdColor.getLsbD k) ∧
    (∃ v : Word, exec (.wWrtMask sp lane b) s = .next { s with regs := { s.regs with wrtMask := v } } ∧
      ∀ k < 32, v.getLsbD k =
        if k / 8 = lane.toNat then b.getLsbD (k % 8) else s.regs.wrtMask.getLsbD k) ∧
    (∃ v : Word, exec (.wRdMask sp lane b) s = .next { s with regs := { s.regs with rdMask := v } } ∧
      ∀ k < 32, v.getLsbD k =
        if k / 8 = lane.toNat then b.getLsbD (k % 8) else s.regs.rdMask.getLsbD k) ∧
    (∃ v : Word, exec (.wColorCmp sp lane b) s = .next { s with regs := { s.regs with colorCmp := v } } ∧
      ∀ k < 32, v.getLsbD k =
        if k / 8 = lane.toNat then b.getLsbD (k % 8) else s.regs.colorCmp.getLsbD k)

/-- Tier 1. A write to NONE or to an unused lane changes no state (42 R200, 30 R111). -/
def Obligations.UnusedLanesAndNoneIgnoreWrites : Prop :=
  ∀ (s : State) (sp : BusSpace) (lane : BitVec 2) (b : Byte),
    (2 ≤ lane.toNat → ∀ i ∈ [Instr.wCurY sp lane b, .wCurX sp lane b, .wDestyAxstp sp lane b,
      .wDestxDiastp sp lane b, .wErrTerm sp lane b, .wMajAxisPcnt sp lane b, .wCmd sp lane b,
      .wShortStroke sp lane b, .wBkgdMix sp lane b, .wFrgdMix sp lane b], exec i s = .next s) ∧
    (∀ a : ByteAddr, decodeAddr a = .none → exec (.wNone a b) s = .next s)

/-- Tier 2. The two latches (42 R210, R220): lane 0 of CMD latches the low byte, and lane 1 sets the high
byte and commits the whole command word; lanes 0 and 2 of MULTIFUNC_CNTL latch the low byte, and lanes 1
and 3 set the high byte and commit. A commit is the run of the word's own row to a next state. -/
def Obligations.LatchedWordsCommitOnTheHighByte : Prop :=
  ∀ (s : State) (sp : BusSpace) (b : Byte),
    exec (.wCmd sp 0#2 b) s = .next { s with
      regs := { s.regs with cmd := s.regs.cmd.extractLsb' 8 8 ++ b } } ∧
    (∃ (i : Instr) (t : State),
      decode .cmd ((b ++ s.regs.cmd.extractLsb' 0 8).setWidth 64) = .ok i ∧
      exec (.wCmd sp 1#2 b) s = exec i s ∧ exec i s = .next t) ∧
    (∀ lane ∈ [0#2, 2#2], exec (.wMultifuncCntl sp lane b) s = .next { s with
      regs := { s.regs with mfLatch := s.regs.mfLatch.extractLsb' 8 8 ++ b } }) ∧
    (∀ lane ∈ [1#2, 3#2], ∃ (i : Instr) (t : State),
      decode .multifunc ((b ++ s.regs.mfLatch.extractLsb' 0 8).setWidth 64) = .ok i ∧
      exec (.wMultifuncCntl sp lane b) s = exec i s ∧ exec i s = .next t)

/-- Tier 2. COMMIT (42 R222, 30 R130): the slot of the word's INDEX takes its DATA; no other slot and nothing
else changes, but the latch, which holds the word; that a row's own run sets it is the model's reading
(log 21). -/
def Obligations.MultifunctionCommitWritesOneSlot : Prop :=
  ∀ (s : State) (data : Slot12) (i : Instr) (index : BitVec 4),
    (i, index) ∈ [(Instr.mfMinAxisPcnt data, 0#4), (.mfScissorsT data, 1#4), (.mfScissorsL data, 2#4),
      (.mfScissorsB data, 3#4), (.mfScissorsR data, 4#4), (.mfSlot5 data, 5#4), (.mfSlot6 data, 6#4),
      (.mfSlot7 data, 7#4), (.mfSlot8 data, 8#4), (.mfSlot9 data, 9#4), (.mfPixCntl data, 10#4),
      (.mfSlotb data, 11#4), (.mfSlotc data, 12#4), (.mfSlotd data, 13#4), (.mfMultMisc data, 14#4),
      (.mfReadSel data, 15#4)] →
    ∃ mf : Vector Slot12 16,
      exec i s = .next { s with regs := { s.regs with mfLatch := index ++ data, mf := mf } } ∧
      mf[index.toNat] = data ∧ ∀ j : Fin 16, j.val ≠ index.toNat → mf[j] = s.regs.mf[j]

/-- Tier 2. A pixel-transfer byte (42 R230, R231), whichever the address: ignored with no primitive waiting,
staged while the unit is not complete. -/
def Obligations.PixelBytesAreStagedOrIgnored : Prop :=
  ∀ (s : State) (sp : BusSpace) (lane : BitVec 2) (o : BitVec 15) (b : Byte),
    ∀ i ∈ [Instr.wPixTrans sp lane b, .wPixTransWindow o b],
    (s.ex.active = false → exec i s = .next { s with regs := { s.regs with stageCnt := 0 } }) ∧
    (s.ex.active = true → s.regs.stageCnt + 1 < s.ex.u → s.ex.u ≤ 4 →
      ∃ stage : Vector Byte 4,
        exec i s = .next { s with regs := { s.regs with
          stage := stage, stageCnt := s.regs.stageCnt + 1 } } ∧
        ∀ j : Fin 4, stage[j] = if j.val = s.regs.stageCnt then b else s.regs.stage[j])

/-- Tier 2. The byte that completes a unit delivers it (42 R230, 44 R294): its items are stepped one after
another until a row ends or the primitive is done, the position is written back, the execution state stays
as the last item left it (44 R290), and the primitive ends exactly when it is done. -/
def Obligations.CompleteUnitIsDelivered : Prop :=
  ∀ (s : State) (sp : BusSpace) (lane : BitVec 2) (o : BitVec 15) (b : Byte),
    s.ex.active = true → s.regs.stageCnt + 1 = s.ex.u → s.ex.u ≤ 4 →
    ∀ i ∈ [Instr.wPixTrans sp lane b, .wPixTransWindow o b],
    ∃ (stage : Vector Byte 4) (run : Nat → State) (ev : Nat → Event) (n : Nat) (t : State),
      (∀ j : Fin 4, stage[j] = if j.val = s.regs.stageCnt then b else s.regs.stage[j]) ∧
      run 0 = { s with regs := { s.regs with stage := stage, stageCnt := 0 } } ∧
      let items := feedItemsOf s.ex.feed s.params.pb (swapUnit s.ex.cmd (stage.toList.take s.ex.u))
      n ≤ items.length ∧
      (∀ k < n, engineStep (items.getD k .none) (run k) = (run (k + 1), ev k)) ∧
      (∀ k < n, k + 1 < n → ev k = .cont) ∧
      (n < items.length → ∃ k, n = k + 1 ∧ ev k ≠ .cont) ∧
      exec i s = .next t ∧
      t.regs = writebackRegs (run n).ex (run n).regs ∧
      t.fb = (run n).fb ∧ t.dirty = (run n).dirty ∧
      t.ex = { (run n).ex with active := t.ex.active } ∧
      (t.ex.active = false ↔ ∃ k, n = k + 1 ∧ ev k = .done) ∧
      t.queue = s.queue ∧ t.wakePending = s.wakePending ∧ t.stop = s.stop ∧ t.cstate = s.cstate ∧
      t.pstate = s.pstate ∧ t.params = s.params

/-- Tier 2. ITEMS (44 R292): a MONO unit is its bits, most significant first, bytes in order; a COLOUR unit
its pixels, little-endian. SWAP (44 R293): with BYTE_SWAP set the bytes of each 16-bit pair change places; a
unit of one byte, and any unit with BYTE_SWAP clear, stays as it is. -/
def Obligations.FeedUnitItemsAreInOrder : Prop :=
  ∀ u : List Byte,
    (∀ pb, (feedItemsOf .mono pb u).length = 8 * u.length ∧
      ∀ k < 8 * u.length, (feedItemsOf .mono pb u)[k]? = some (.bit ((u.getD (k / 8) 0#8).getLsbD (7 - k % 8)))) ∧
    (∀ pb, pb = 1 ∨ pb = 2 ∨ pb = 4 → (feedItemsOf .colour pb u).length = u.length / pb ∧
      ∀ j < u.length / pb, ∃ v : Word, (feedItemsOf .colour pb u)[j]? = some (.pix v) ∧
        v.toNat < 2 ^ (8 * pb) ∧ ∀ k < pb, byteOf v k = u.getD (j * pb + k) 0#8) ∧
    ∀ (c : Half) (a b d e : Byte),
      swapUnit c [a] = [a] ∧
      (c.getLsbD 12 = true → swapUnit c [a, b] = [b, a] ∧ swapUnit c [a, b, d, e] = [b, a, e, d]) ∧
      (c.getLsbD 12 = false → swapUnit c u = u)

/-- Tier 2. An entry is its bytes (41 R182, 42 R202, 30 R114): executing it is executing the byte writes of
its bytes in ascending order, each where its own address decodes; an Invalid entry does nothing. The port of a
port entry is the low 16 bits of its offset; for an offset with bits 55:48 of the entry set, which no Producer
makes, that is the model's choice (log 18). -/
def Obligations.EntriesExecuteTheirBytesInOrder : Prop :=
  ∀ (s : State) (off : BitVec 24) (p : Word),
    exec (.entryInvalid off p) s = .next s ∧
    ∀ (i : Instr) (addrs : List ByteAddr),
      (i, addrs) ∈ [(Instr.entryWriteByte off p, [ByteAddr.mapped off.toNat]),
        (.entryWriteWord off p, [.mapped off.toNat, .mapped (off.toNat + 1)]),
        (.entryWriteDword off p, [.mapped off.toNat, .mapped (off.toNat + 1), .mapped (off.toNat + 2),
          .mapped (off.toNat + 3)]),
        (.entryOutByte off p, [.port (off.setWidth 16)]),
        (.entryOutWord off p, [.port (off.setWidth 16), .port (off.setWidth 16 + 1#16)]),
        (.entryOutDword off p, [.port (off.setWidth 16), .port (off.setWidth 16 + 1#16),
          .port (off.setWidth 16 + 2#16), .port (off.setWidth 16 + 3#16)])] →
      ∃ t, exec i s = .next t ∧
        execAll ((List.range addrs.length).map (fun k =>
          byteWriteInstr (addrs.getD k (.mapped 0)) (p.extractLsb' (8 * k) 8))) s = .next t

/-! ## The primitives -/

/-- Tier 2. Command words of classes 0, 3, 4 and 5 (44 R282, R281): a waiting primitive is abandoned and the
stage emptied, the latch holds the word, and nothing else changes. -/
def Obligations.NoOpCommandsOnlyAbandon : Prop :=
  ∀ (s : State) (lo : BitVec 13) (i : Instr) (k : BitVec 3),
    (i, k) ∈ [(Instr.cmdNop lo, 0#3), (.cmdRsv3 lo, 3#3), (.cmdRsv4 lo, 4#3), (.cmdRsv5 lo, 5#3)] →
    exec i s = .next { s with
      regs := { s.regs with cmd := k ++ lo, stageCnt := 0 }
      ex := { s.ex with active := false } }

/-- Tier 2. A CPU-fed command with a nonzero extent draws nothing at START: it waits, with the snapshots of
44 R280, R291, R300, R310, R320 and R330. -/
def Obligations.CpuFedCommandsWaitForData : Prop :=
  ∀ (s : State) (lo : BitVec 13) (hi9 : BitVec 9) (l3 : BitVec 3) (i : Instr) (c : Half) (cls : Cls),
    (i, c, cls) ∈ [(Instr.cmdLine lo, 1#3 ++ lo, Cls.line), (.cmdRect lo, 2#3 ++ lo, .rect),
      (.cmdBlit lo, 6#3 ++ lo, .blit), (.cmdPat lo, 7#3 ++ lo, .pat),
      (.cmdLineBresenham hi9 l3, 1#3 ++ hi9 ++ 0#1 ++ l3, .line),
      (.cmdLineRadial hi9 l3, 1#3 ++ hi9 ++ 1#1 ++ l3, .line)] →
    c.getLsbD 8 = true → s.regs.majAxisPcnt ≠ 0#12 → (cls ≠ .line → s.regs.mf[0] ≠ 0#12) →
    ∃ e : Ex,
      exec i s = .next { s with regs := { s.regs with cmd := c, stageCnt := 0 }, ex := e } ∧
      e.active = true ∧ e.cls = cls ∧ e.cmd = c ∧ e.ms = s.regs.mf[10].extractLsb' 6 2 ∧
      (e.ms = 2#2 → e.feed = .mono ∧ e.u = busBytes c) ∧
      (e.ms ≠ 2#2 → e.feed = .colour ∧ e.u = max (busBytes c) s.params.pb) ∧
      e.left = s.regs.majAxisPcnt.toNat ∧
      (cls ≠ .line → e.w = s.regs.majAxisPcnt ∧ e.rows = (s.regs.mf[0].toNat : Int) - 1) ∧
      (cls = .line → e.x = s.regs.curX ∧ e.y = s.regs.curY ∧ e.err = s.regs.errTerm ∧
        e.maj = s.regs.majAxisPcnt ∧ e.ax = s.regs.destyAxstp ∧ e.dia = s.regs.destxDiastp) ∧
      (cls = .rect → e.x = s.regs.curX ∧ e.y = s.regs.curY ∧ e.x0 = s.regs.curX) ∧
      (cls = .blit ∨ cls = .pat →
        e.x = s.regs.destxDiastp ∧ e.y = s.regs.destyAxstp ∧ e.x0 = s.regs.destxDiastp) ∧
      (cls = .blit → e.sx = s.regs.curX ∧ e.sy = s.regs.curY ∧ e.sx0 = s.regs.curX) ∧
      (cls = .pat → e.tx.toNat = s.regs.curX.toNat / 8 * 8 ∧ e.px.toNat = s.regs.curX.toNat % 8 ∧
        e.ty.toNat = s.regs.curY.toNat / 8 * 8 ∧ e.py.toNat = s.regs.curY.toNat % 8 ∧ e.px0 = e.px)

/-- Tier 2. STEP of each class (44 R301 to R303, R311, R321, R331), while pixels are left in the row: PIXEL at
`(ex.X, ex.Y)` on the state before the step, with no source address for a Line and a Rectangle Fill, the
address (20 R74) of `(ex.SX, ex.SY)` for a BitBlt and of `(ex.TX + ex.PX, ex.TY + ex.PY)` for a Pattern Fill,
sums that do not wrap where TX and TY are multiples of 8, as SETUP leaves them; then the position moves as the
class says. A row's last pixel goes on to the next row, and ends the primitive when the row counter goes
negative; a Line ends with its last pixel. -/
def Obligations.StepPlotsThenAdvances : Prop :=
  ∀ (s : State) (item : Item) (xs ys : Int) (addr : Half → Half → Nat),
    xs = (if s.ex.cmd.getLsbD 5 = true then 1 else -1) →
    ys = (if s.ex.cmd.getLsbD 7 = true then 1 else -1) →
    (∀ x y : Half, addr x y = s.params.pb *
      ((y.toInt * (s.params.pitch : Int) + x.toInt) % ((s.params.vramBytes / s.params.pb : Nat) : Int)).toNat) →
    0 < s.ex.left →
    ∀ last : Event, last = (if s.ex.rows - 1 < 0 then .done else .rowEnd) →
    (s.ex.cls = .line → ∀ x y err : Half,
      (∀ (d : BitVec 3) (dx dy : Int),
        (d, dx, dy) ∈ [(0#3, (1 : Int), (0 : Int)), (1#3, 1, -1), (2#3, 0, -1), (3#3, -1, -1), (4#3, -1, 0),
          (5#3, -1, 1), (6#3, 0, 1), (7#3, 1, 1)] →
        s.ex.cmd.getLsbD 3 = true → s.ex.cmd.extractLsb' 5 3 = d →
        x = BitVec.ofInt 16 (s.ex.x.toInt + dx) ∧ y = BitVec.ofInt 16 (s.ex.y.toInt + dy) ∧ err = s.ex.err) →
      (s.ex.cmd.getLsbD 3 = false → (s.ex.maj.toNat : Int) ≤ s.ex.err.toInt →
        x = BitVec.ofInt 16 (s.ex.x.toInt + xs) ∧ y = BitVec.ofInt 16 (s.ex.y.toInt + ys) ∧
        err = BitVec.ofInt 16 (s.ex.err.toInt + s.ex.dia.toInt)) →
      (s.ex.cmd.getLsbD 3 = false → s.ex.err.toInt < (s.ex.maj.toNat : Int) →
        x = (if s.ex.cmd.getLsbD 6 = true then s.ex.x else BitVec.ofInt 16 (s.ex.x.toInt + xs)) ∧
        y = (if s.ex.cmd.getLsbD 6 = true then BitVec.ofInt 16 (s.ex.y.toInt + ys) else s.ex.y) ∧
        err = BitVec.ofInt 16 (s.ex.err.toInt + s.ex.ax.toInt)) →
      engineStep item s =
        ({ s.pixel s.ex.x s.ex.y item none with
            ex := { s.ex with x := x, y := y, err := err, left := s.ex.left - 1 } },
          if s.ex.left = 1 then .done else .cont)) ∧
    (s.ex.cls = .rect →
      (1 < s.ex.left → engineStep item s =
        ({ s.pixel s.ex.x s.ex.y item none with
            ex := { s.ex with x := BitVec.ofInt 16 (s.ex.x.toInt + xs), left := s.ex.left - 1 } }, .cont)) ∧
      (s.ex.left = 1 → engineStep item s =
        ({ s.pixel s.ex.x s.ex.y item none with
            ex := { s.ex with
              x := s.ex.x0, y := BitVec.ofInt 16 (s.ex.y.toInt + ys)
              left := s.ex.w.toNat, rows := s.ex.rows - 1 } }, last))) ∧
    (s.ex.cls = .blit →
      (1 < s.ex.left → engineStep item s =
        ({ s.pixel s.ex.x s.ex.y item (some (addr s.ex.sx s.ex.sy)) with
            ex := { s.ex with
              x := BitVec.ofInt 16 (s.ex.x.toInt + xs), sx := BitVec.ofInt 16 (s.ex.sx.toInt + xs)
              left := s.ex.left - 1 } }, .cont)) ∧
      (s.ex.left = 1 → engineStep item s =
        ({ s.pixel s.ex.x s.ex.y item (some (addr s.ex.sx s.ex.sy)) with
            ex := { s.ex with
              x := s.ex.x0, sx := s.ex.sx0
              y := BitVec.ofInt 16 (s.ex.y.toInt + ys), sy := BitVec.ofInt 16 (s.ex.sy.toInt + ys)
              left := s.ex.w.toNat, rows := s.ex.rows - 1 } }, last))) ∧
    (s.ex.cls = .pat → ∀ px py : BitVec 3,
      (px.toNat : Int) = ((s.ex.px.toNat : Int) + xs) % 8 → (py.toNat : Int) = ((s.ex.py.toNat : Int) + ys) % 8 →
      ∀ tile : Nat,
        tile = addr (BitVec.ofInt 16 (s.ex.tx.toInt + (s.ex.px.toNat : Int)))
          (BitVec.ofInt 16 (s.ex.ty.toInt + (s.ex.py.toNat : Int))) →
      (1 < s.ex.left → engineStep item s =
        ({ s.pixel s.ex.x s.ex.y item (some tile) with
            ex := { s.ex with
              x := BitVec.ofInt 16 (s.ex.x.toInt + xs), px := px, left := s.ex.left - 1 } }, .cont)) ∧
      (s.ex.left = 1 → engineStep item s =
        ({ s.pixel s.ex.x s.ex.y item (some tile) with
            ex := { s.ex with
              x := s.ex.x0, px := s.ex.px0
              y := BitVec.ofInt 16 (s.ex.y.toInt + ys), py := py
              left := s.ex.w.toNat, rows := s.ex.rows - 1 } }, last)))

/-- Tier 2. Rectangle Fill (44 R312, R284): run without feed, or with a zero extent, it leaves CUR_X and moves
CUR_Y by the row count in the y direction, and ends; with a zero extent it writes no pixel. -/
def Obligations.RectangleRestingValues : Prop :=
  ∀ (s : State) (lo : BitVec 13) (c : Half), c = 2#3 ++ lo →
    c.getLsbD 8 = false ∨ s.regs.majAxisPcnt = 0#12 ∨ s.regs.mf[0] = 0#12 →
    ∃ (fb : Memory) (dirty : List Nat) (pipe : Pipe) (e : Ex),
      exec (.cmdRect lo) s = .next { s with
        fb := fb, dirty := dirty, pipe := pipe, ex := e
        regs := { s.regs with
          cmd := c, stageCnt := 0
          curY := BitVec.ofInt 16 (s.regs.curY.toInt +
            (if c.getLsbD 7 = true then 1 else -1) * (s.regs.mf[0].toNat : Int)) } } ∧
      e.active = false ∧
      (s.regs.majAxisPcnt = 0#12 ∨ s.regs.mf[0] = 0#12 → fb = s.fb ∧ dirty = s.dirty)

/-- Tier 2. BitBlt and Pattern Fill (44 R322, R332, R284): the destination moves by the row count in the y
direction; a BitBlt's source moves with it, a Pattern Fill's tile does not. -/
def Obligations.BlitAndPatternRestingValues : Prop :=
  ∀ (s : State) (lo : BitVec 13),
    (∀ c : Half, c = 6#3 ++ lo →
      c.getLsbD 8 = false ∨ s.regs.majAxisPcnt = 0#12 ∨ s.regs.mf[0] = 0#12 →
      ∃ (fb : Memory) (dirty : List Nat) (pipe : Pipe) (e : Ex),
        exec (.cmdBlit lo) s = .next { s with
          fb := fb, dirty := dirty, pipe := pipe, ex := e
          regs := { s.regs with
            cmd := c, stageCnt := 0
            curY := BitVec.ofInt 16 (s.regs.curY.toInt +
              (if c.getLsbD 7 = true then 1 else -1) * (s.regs.mf[0].toNat : Int))
            destyAxstp := BitVec.ofInt 16 (s.regs.destyAxstp.toInt +
              (if c.getLsbD 7 = true then 1 else -1) * (s.regs.mf[0].toNat : Int)) } } ∧
        e.active = false ∧
        (s.regs.majAxisPcnt = 0#12 ∨ s.regs.mf[0] = 0#12 → fb = s.fb ∧ dirty = s.dirty)) ∧
    (∀ c : Half, c = 7#3 ++ lo →
      c.getLsbD 8 = false ∨ s.regs.majAxisPcnt = 0#12 ∨ s.regs.mf[0] = 0#12 →
      ∃ (fb : Memory) (dirty : List Nat) (pipe : Pipe) (e : Ex),
        exec (.cmdPat lo) s = .next { s with
          fb := fb, dirty := dirty, pipe := pipe, ex := e
          regs := { s.regs with
            cmd := c, stageCnt := 0
            destyAxstp := BitVec.ofInt 16 (s.regs.destyAxstp.toInt +
              (if c.getLsbD 7 = true then 1 else -1) * (s.regs.mf[0].toNat : Int)) } } ∧
        e.active = false ∧
        (s.regs.majAxisPcnt = 0#12 ∨ s.regs.mf[0] = 0#12 → fb = s.fb ∧ dirty = s.dirty))

/-- Tier 2. A radial Line (44 R303, R304, 30 R123): it moves by the direction's step once per pixel and
leaves ERR_TERM and every other register. -/
def Obligations.RadialLineRestingValues : Prop :=
  ∀ (s : State) (lo : BitVec 13) (hi9 : BitVec 9) (l3 : BitVec 3) (i : Instr) (c : Half),
    (i, c) ∈ [(Instr.cmdLine lo, 1#3 ++ lo), (.cmdLineRadial hi9 l3, 1#3 ++ hi9 ++ 1#1 ++ l3)] →
    c.getLsbD 3 = true → c.getLsbD 8 = false ∨ s.regs.majAxisPcnt = 0#12 →
    ∀ (d : BitVec 3) (dx dy : Int),
      (d, dx, dy) ∈ [(0#3, (1 : Int), (0 : Int)), (1#3, 1, -1), (2#3, 0, -1), (3#3, -1, -1), (4#3, -1, 0),
        (5#3, -1, 1), (6#3, 0, 1), (7#3, 1, 1)] →
      c.extractLsb' 5 3 = d →
    ∃ (fb : Memory) (dirty : List Nat) (pipe : Pipe) (e : Ex),
      exec i s = .next { s with
        fb := fb, dirty := dirty, pipe := pipe, ex := e
        regs := { s.regs with
          cmd := c, stageCnt := 0
          curX := BitVec.ofInt 16 (s.regs.curX.toInt + dx * (s.regs.majAxisPcnt.toNat : Int))
          curY := BitVec.ofInt 16 (s.regs.curY.toInt + dy * (s.regs.majAxisPcnt.toNat : Int)) } } ∧
      e.active = false ∧ (s.regs.majAxisPcnt = 0#12 → fb = s.fb ∧ dirty = s.dirty)

/-- Tier 2. A Bresenham Line (44 R300 to R302, R304): position and error term are those of as many
Bresenham steps as the Line has pixels; DESTY_AXSTP, DESTX_DIASTP and MAJ_AXIS_PCNT stay. -/
def Obligations.BresenhamLineRestingValues : Prop :=
  ∀ (s : State) (lo : BitVec 13) (hi9 : BitVec 9) (l3 : BitVec 3) (i : Instr) (c : Half),
    (i, c) ∈ [(Instr.cmdLine lo, 1#3 ++ lo), (.cmdLineBresenham hi9 l3, 1#3 ++ hi9 ++ 0#1 ++ l3)] →
    c.getLsbD 3 = false → c.getLsbD 8 = false ∨ s.regs.majAxisPcnt = 0#12 →
    ∀ (xs ys : Half) (move : Half × Half × Half → Half × Half × Half),
      xs = (if c.getLsbD 5 = true then 1#16 else 0xFFFF#16) →
      ys = (if c.getLsbD 7 = true then 1#16 else 0xFFFF#16) →
      (∀ x y err : Half, move (x, y, err) =
        if (s.regs.majAxisPcnt.toNat : Int) ≤ err.toInt then (x + xs, y + ys, err + s.regs.destxDiastp)
        else if c.getLsbD 6 = true then (x, y + ys, err + s.regs.destyAxstp)
        else (x + xs, y, err + s.regs.destyAxstp)) →
    ∀ x y err : Half,
      (x, y, err) = Nat.iterate move s.regs.majAxisPcnt.toNat (s.regs.curX, s.regs.curY, s.regs.errTerm) →
    ∃ (fb : Memory) (dirty : List Nat) (pipe : Pipe) (e : Ex),
      exec i s = .next { s with
        fb := fb, dirty := dirty, pipe := pipe, ex := e
        regs := { s.regs with cmd := c, stageCnt := 0, curX := x, curY := y, errTerm := err } } ∧
      e.active = false ∧ (s.regs.majAxisPcnt = 0#12 → fb = s.fb ∧ dirty = s.dirty)

/-- Tier 3. Clipping (43 R257, R266): a command, and a pixel-transfer byte, change only bytes of pixels
inside the clip rectangle. -/
def Obligations.ClipConfinesEveryWrite : Prop :=
  ∀ (s t : State) (lo : BitVec 13) (hi9 : BitVec 9) (l3 : BitVec 3) (sp : BusSpace)
    (lane : BitVec 2) (o : BitVec 15) (b : Byte), Memory.wf s.fb →
    ∀ i ∈ [Instr.cmdNop lo, .cmdLine lo, .cmdRect lo, .cmdRsv3 lo, .cmdRsv4 lo, .cmdRsv5 lo, .cmdBlit lo,
      .cmdPat lo, .cmdLineBresenham hi9 l3, .cmdLineRadial hi9 l3, .wPixTrans sp lane b,
      .wPixTransWindow o b],
    exec i s = .next t →
    ∀ a : Nat,
      (∀ x y : Half,
        (s.regs.mf[2].toNat : Int) ≤ x.toInt → x.toInt ≤ (s.regs.mf[4].toNat : Int) →
        (s.regs.mf[1].toNat : Int) ≤ y.toInt → y.toInt ≤ (s.regs.mf[3].toNat : Int) →
        ¬ pixelBytes s.params x y a) →
      t.fb.read a = s.fb.read a

/-- Tier 3. The dirty bitmap (43 R262): a command, and a pixel-transfer byte, mark the page of every byte
they change and clear no page. -/
def Obligations.ChangedBytesAreMarkedDirty : Prop :=
  ∀ (s t : State) (lo : BitVec 13) (hi9 : BitVec 9) (l3 : BitVec 3) (sp : BusSpace)
    (lane : BitVec 2) (o : BitVec 15) (b : Byte), validParams s.params → Memory.wf s.fb →
    ∀ i ∈ [Instr.cmdNop lo, .cmdLine lo, .cmdRect lo, .cmdRsv3 lo, .cmdRsv4 lo, .cmdRsv5 lo, .cmdBlit lo,
      .cmdPat lo, .cmdLineBresenham hi9 l3, .cmdLineRadial hi9 l3, .wPixTrans sp lane b,
      .wPixTransWindow o b],
    exec i s = .next t →
    (∀ q ∈ s.dirty, q ∈ t.dirty) ∧ ∀ a : Nat, t.fb.read a ≠ s.fb.read a → a / 4096 ∈ t.dirty

/-- Tier 3. Pass-through (43 R265): with MIX_CODE 3 in both mixes a command, and a pixel-transfer byte, leave
every framebuffer byte as it was. -/
def Obligations.PassThroughMixLeavesTheFramebuffer : Prop :=
  ∀ (s t : State) (lo : BitVec 13) (hi9 : BitVec 9) (l3 : BitVec 3) (sp : BusSpace)
    (lane : BitVec 2) (o : BitVec 15) (b : Byte), validParams s.params → Memory.wf s.fb →
    s.regs.frgdMix.extractLsb' 0 4 = 3#4 → s.regs.bkgdMix.extractLsb' 0 4 = 3#4 →
    ∀ i ∈ [Instr.cmdNop lo, .cmdLine lo, .cmdRect lo, .cmdRsv3 lo, .cmdRsv4 lo, .cmdRsv5 lo, .cmdBlit lo,
      .cmdPat lo, .cmdLineBresenham hi9 l3, .cmdLineRadial hi9 l3, .wPixTrans sp lane b,
      .wPixTransWindow o b],
    exec i s = .next t → ∀ a : Nat, t.fb.read a = s.fb.read a

/-- Tier 2. A solid Rectangle Fill (44 R310, R311, 43 R253): with the foreground colour copied through an
open write mask and no compare, every pixel of the rectangle inside the clip holds the colour afterwards,
and every byte of no such pixel is as before. -/
def Obligations.RectangleFillDrawsItsPixels : Prop :=
  ∀ (s : State) (lo : BitVec 13) (c : Half), c = 2#3 ++ lo → c.getLsbD 8 = false →
    validParams s.params → Memory.wf s.fb →
    s.regs.frgdMix.extractLsb' 5 2 = 1#2 → s.regs.frgdMix.extractLsb' 0 4 = 7#4 →
    s.regs.wrtMask = 0xFFFFFFFF#32 → s.regs.mf[14].extractLsb' 7 2 = 0#2 →
    ∃ t, exec (.cmdRect lo) s = .next t ∧
    ∀ inRect : Half → Half → Prop,
      (∀ x y : Half, inRect x y ↔
        (∃ j < s.regs.majAxisPcnt.toNat, ∃ k < s.regs.mf[0].toNat,
          x = BitVec.ofInt 16 (s.regs.curX.toInt + (if c.getLsbD 5 = true then 1 else -1) * (j : Int)) ∧
          y = BitVec.ofInt 16 (s.regs.curY.toInt + (if c.getLsbD 7 = true then 1 else -1) * (k : Int))) ∧
        (s.regs.mf[2].toNat : Int) ≤ x.toInt ∧ x.toInt ≤ (s.regs.mf[4].toNat : Int) ∧
        (s.regs.mf[1].toNat : Int) ≤ y.toInt ∧ y.toInt ≤ (s.regs.mf[3].toNat : Int)) →
      (∀ x y : Half, inRect x y → ∀ k < s.params.pb,
        t.fb.read (pixAddr s.params x y + k) = byteOf s.regs.frgdColor k) ∧
      (∀ a : Nat, (∀ x y : Half, inRect x y → ¬ pixelBytes s.params x y a) → t.fb.read a = s.fb.read a)

/-- Tier 2. The zero reset values draw nothing (70 R402): with every register at its reset value each command
word completes, writes no byte, marks no page and leaves no primitive waiting. -/
def Obligations.ResetRegistersDrawNothing : Prop :=
  ∀ (s : State) (lo : BitVec 13) (hi9 : BitVec 9) (l3 : BitVec 3), s.regs = Regs.reset →
    ∀ i ∈ [Instr.cmdNop lo, .cmdLine lo, .cmdRect lo, .cmdRsv3 lo, .cmdRsv4 lo, .cmdRsv5 lo, .cmdBlit lo,
      .cmdPat lo, .cmdLineBresenham hi9 l3, .cmdLineRadial hi9 l3],
    ∃ t, exec i s = .next t ∧ t.fb = s.fb ∧ t.dirty = s.dirty ∧ t.ex.active = false ∧
      t.regs.curX = 0#16 ∧ t.regs.curY = 0#16

/-! ## The pixel pipeline -/

/-- Tier 2. PIXEL (43 R253 to R262) on one position: outside the clip, or with the compare gate closed, it
writes and marks nothing; else the pixel holds the masked mix of source and destination, every other byte
is as before, and its page is dirty. Only the framebuffer, the dirty bits and the pipeline's variables
change. -/
def Obligations.PixelFollowsThePipeline : Prop :=
  ∀ (s : State) (x y : Half) (item : Item) (srcaddr : Option Nat), validParams s.params → Memory.wf s.fb →
    ∀ (vsrc src d r : Word) (sel : Bool) (mix : Half) (mask : Word) (a : Nat),
      mask = BitVec.ofNat 32 (2 ^ (8 * s.params.pb) - 1) →
      vsrc = (match srcaddr with | none => 0#32 | some q => s.memRead q &&& s.regs.rdMask &&& mask) →
      sel = selector s.ex.ms s.ex item vsrc →
      mix = (if sel = true then s.regs.frgdMix else s.regs.bkgdMix) →
      src = source (mix.extractLsb' 5 2) s.ex s.regs item vsrc &&& mask →
      a = pixAddr s.params x y → d = s.memRead a →
      r = mixFn (mix.extractLsb' 0 4) src d &&& mask →
      ∃ (fb : Memory) (dirty : List Nat) (pipe : Pipe),
        s.pixel x y item srcaddr = { s with fb := fb, dirty := dirty, pipe := pipe } ∧
        ((s.regs.inClip x y = true ∧ cmpPass s.regs.cmpMode s.params.pb s.regs.colorCmp src = true) →
          ({ s with fb := fb, dirty := dirty, pipe := pipe } : State).memRead a =
            ((r &&& s.regs.wrtMask) ||| (d &&& ~~~s.regs.wrtMask)) &&& mask ∧
          (∀ q, ¬ pixelBytes s.params x y q → fb.read q = s.fb.read q) ∧
          (∀ q, q ∈ dirty ↔ q = a / 4096 ∨ q ∈ s.dirty)) ∧
        (¬ (s.regs.inClip x y = true ∧ cmpPass s.regs.cmpMode s.params.pb s.regs.colorCmp src = true) →
          fb = s.fb ∧ dirty = s.dirty)

/-- Tier 1. The Raster ALU's table (43 R250): each result bit is the code's function of the source bit and
the destination bit. -/
def Obligations.RasterAluTruthTable : Prop :=
  ∀ (S D : Word) (code : BitVec 4) (f00 f01 f10 f11 : Bool),
    (code, f00, f01, f10, f11) ∈ [(0x0#4, true, false, true, false), (0x1#4, false, false, false, false),
      (0x2#4, true, true, true, true), (0x3#4, false, true, false, true),
      (0x4#4, true, true, false, false), (0x5#4, false, true, true, false),
      (0x6#4, true, false, false, true), (0x7#4, false, false, true, true),
      (0x8#4, true, true, true, false), (0x9#4, true, true, false, true),
      (0xA#4, true, false, true, true), (0xB#4, false, true, true, true),
      (0xC#4, false, false, false, true), (0xD#4, false, false, true, false),
      (0xE#4, false, true, false, false), (0xF#4, true, false, false, false)] →
    ∀ k < 32, (mixFn code S D).getLsbD k =
      if S.getLsbD k = true then (if D.getLsbD k = true then f11 else f10)
      else (if D.getLsbD k = true then f01 else f00)

/-- Tier 2. The MIX rows (43 R250, R259) run the mix stage on the pipeline's variables, the model's own
(log 13): the masked result is `f(S, D)` bit by bit, and nothing else changes. -/
def Obligations.MixRowsComputeTheirFunction : Prop :=
  ∀ (s : State) (hi : BitVec 12) (i : Instr) (f00 f01 f10 f11 : Bool),
    (i, f00, f01, f10, f11) ∈ [(Instr.mixNotD hi, true, false, true, false),
      (.mixZero hi, false, false, false, false), (.mixOne hi, true, true, true, true),
      (.mixD hi, false, true, false, true), (.mixNotS hi, true, true, false, false),
      (.mixSXorD hi, false, true, true, false), (.mixSXnorD hi, true, false, false, true),
      (.mixS hi, false, false, true, true), (.mixSNandD hi, true, true, true, false),
      (.mixNotSOrD hi, true, true, false, true), (.mixSOrNotD hi, true, false, true, true),
      (.mixSOrD hi, false, true, true, true), (.mixSAndD hi, false, false, false, true),
      (.mixSAndNotD hi, false, false, true, false), (.mixNotSAndD hi, false, true, false, false),
      (.mixSNorD hi, true, false, false, false)] →
    ∃ r : Word, exec i s = .next { s with pipe := { s.pipe with r := r } } ∧
      ∀ k < 32, r.getLsbD k = (decide (k < 8 * s.params.pb) &&
        if s.pipe.src.getLsbD k = true then (if s.pipe.d.getLsbD k = true then f11 else f10)
        else (if s.pipe.d.getLsbD k = true then f01 else f00))

/-- Tier 2. The SRC rows (43 R256), the MIXSEL rows (43 R254) and the CMP rows (43 R258) run their stage on
the pipeline's variables, the model's own (log 13); nothing else changes. An item that is not the feed's
reaches a stage only when it runs alone (log 23). -/
def Obligations.SelectorSourceAndCompareRows : Prop :=
  ∀ (s : State) (mask : Word), mask = BitVec.ofNat 32 (2 ^ (8 * s.params.pb) - 1) →
    (∀ (hi : BitVec 9) (lo : BitVec 5) (i : Instr) (v : Word),
      (i, v) ∈ [(Instr.srcBkgdColor hi lo, s.regs.bkgdColor), (.srcFrgdColor hi lo, s.regs.frgdColor),
        (.srcCpuData hi lo, match s.ex.feed, s.pipe.item with | .colour, .pix d => d | _, _ => 0#32),
        (.srcDisplayMemory hi lo,
          if s.ex.cls = .blit ∨ s.ex.cls = .pat then s.pipe.vsrc else 0#32)] →
      exec i s = .next { s with pipe := { s.pipe with src := v &&& mask } }) ∧
    (∀ (hi : BitVec 4) (lo : BitVec 6) (i : Instr) (b : Bool),
      (i, b) ∈ [(Instr.mixselAlwaysFg hi lo, true), (.mixselReservedAs0 hi lo, true),
        (.mixselCpuData hi lo, match s.ex.feed, s.pipe.item with | .mono, .bit d => d | _, _ => true),
        (.mixselDisplayMemory hi lo,
          if s.ex.cls = .blit ∨ s.ex.cls = .pat then s.pipe.vsrc != 0#32 else true)] →
      exec i s = .next { s with pipe := { s.pipe with sel := b } }) ∧
    (∀ (hi : BitVec 3) (lo : BitVec 7) (i : Instr) (b : Bool),
      (i, b) ∈ [(Instr.cmpAlways hi lo, true), (.cmpNever hi lo, false),
        (.cmpNe hi lo, s.pipe.src != s.regs.colorCmp &&& mask),
        (.cmpEq hi lo, s.pipe.src == s.regs.colorCmp &&& mask)] →
      exec i s = .next { s with pipe := { s.pipe with pass := b } })
end

