-- ==== Sys2Proof/Laws/Bits.lean ====
section
/-! SUPPORT. Fields of concatenations, and the fields of the packed words the encoder writes. -/

namespace Sys2Proof

theorem extract_append_high {m n k l : Nat} (a : BitVec m) (b : BitVec n) (h : n ≤ k) :
    (a ++ b).extractLsb' k l = a.extractLsb' (k - n) l := by
  apply BitVec.eq_of_getLsbD_eq
  intro i hi
  simp only [BitVec.getLsbD_extractLsb', BitVec.getLsbD_append]
  have : ¬ (k + i < n) := by omega
  simp [this, show k + i - n = k - n + i by omega]

theorem extract_append_low {m n k l : Nat} (a : BitVec m) (b : BitVec n) (h : k + l ≤ n) :
    (a ++ b).extractLsb' k l = b.extractLsb' k l := by
  apply BitVec.eq_of_getLsbD_eq
  intro i hi
  simp only [BitVec.getLsbD_extractLsb', BitVec.getLsbD_append]
  have : k + i < n := by omega
  simp [this]

theorem extract_full {n : Nat} (b : BitVec n) : b.extractLsb' 0 n = b := by
  apply BitVec.eq_of_getLsbD_eq
  intro i hi
  simp [hi]

/-- Two fields: the upper one. -/
theorem high_of_two {m n : Nat} (a : BitVec m) (b : BitVec n) : (a ++ b).extractLsb' n m = a := by
  rw [extract_append_high a b (Nat.le_refl n), Nat.sub_self, extract_full]

/-- Two fields: the lower one. -/
theorem low_of_two {m n : Nat} (a : BitVec m) (b : BitVec n) : (a ++ b).extractLsb' 0 n = b := by
  rw [extract_append_low a b (by omega), extract_full]

/-- Three fields: the middle one. -/
theorem mid_of_three {m n k : Nat} (a : BitVec m) (b : BitVec n) (c : BitVec k) :
    (a ++ b ++ c).extractLsb' k n = b := by
  rw [extract_append_high (a ++ b) c (Nat.le_refl k), Nat.sub_self, low_of_two]

/-- Three fields: the highest one. -/
theorem high_of_three {m n k : Nat} (a : BitVec m) (b : BitVec n) (c : BitVec k) :
    (a ++ b ++ c).extractLsb' (n + k) m = a := by
  rw [extract_append_high (a ++ b) c (by omega), Nat.add_sub_cancel, high_of_two]

theorem bit_append_high {m n i : Nat} (a : BitVec m) (b : BitVec n) (h : n ≤ i) :
    (a ++ b).getLsbD i = a.getLsbD (i - n) := by
  rw [BitVec.getLsbD_append, if_neg (by omega)]

theorem bit_append_low {m n i : Nat} (a : BitVec m) (b : BitVec n) (h : i < n) :
    (a ++ b).getLsbD i = b.getLsbD i := by
  rw [BitVec.getLsbD_append, if_pos h]

/-- Two fields of a word put together again. -/
theorem join_two {m n : Nat} (w : BitVec (m + n)) : w.extractLsb' n m ++ w.extractLsb' 0 n = w := by
  apply BitVec.eq_of_getLsbD_eq
  intro i hi
  rw [BitVec.getLsbD_append]
  by_cases h : i < n
  · simp [h]
  · simp [h, show n + (i - n) = i by omega, show i - n < m by omega]

/-- Three fields of a word put together again. -/
theorem join_three {m n k : Nat} (w : BitVec (m + n + k)) :
    w.extractLsb' (n + k) m ++ w.extractLsb' k n ++ w.extractLsb' 0 k = w := by
  apply BitVec.eq_of_getLsbD_eq
  intro i hi
  rw [BitVec.getLsbD_append, BitVec.getLsbD_append]
  by_cases h : i < k
  · simp [h]
  · by_cases h2 : i - k < n
    · simp [h, h2, show k + (i - k) = i by omega]
    · simp [h, h2, show n + k + (i - k - n) = i by omega, show i - k - n < m by omega]

@[simp] theorem entryType_pack (t : BitVec 8) (o : BitVec 24) (p : Word) :
    entryType (packEntry t o p) = t := high_of_three t o p

@[simp] theorem entryOffset_pack (t : BitVec 8) (o : BitVec 24) (p : Word) :
    entryOffset (packEntry t o p) = o := mid_of_three t o p

@[simp] theorem entryPayload_pack (t : BitVec 8) (o : BitVec 24) (p : Word) :
    entryPayload (packEntry t o p) = p := low_of_two (t ++ o) p

/-- A packed entry is determined by its three fields. -/
theorem packEntry_fields (e : EntryWord) : packEntry (entryType e) (entryOffset e) (entryPayload e) = e :=
  join_three (m := 8) (n := 24) (k := 32) e

/-- The port of an address field whose upper byte is zero. -/
theorem portOfAddr_of_port (p : BitVec 16) : portOfAddr (0#8 ++ p) = .ok p := by
  have h1 : (0#8 ++ p).extractLsb' 16 8 = 0#8 := high_of_two 0#8 p
  have h2 : (0#8 ++ p).extractLsb' 0 16 = p := low_of_two 0#8 p
  exact (if_pos h1).trans (congrArg Except.ok h2)

/-- A word that fits its width reads back. -/
theorem lowBits_setWidth (n : Nat) (h : n ≤ 64) (w : BitVec n) : lowBits n (w.setWidth 64) = .ok w := by
  have hn : w.toNat < 2 ^ n := w.isLt
  have h64 : w.toNat < 2 ^ 64 := Nat.lt_of_lt_of_le hn (Nat.pow_le_pow_right (by omega) h)
  have h1 : (w.setWidth 64).toNat = w.toNat := by
    rw [BitVec.toNat_setWidth, Nat.mod_eq_of_lt h64]
  unfold lowBits
  rw [if_pos (by omega)]
  congr 1
  apply BitVec.eq_of_toNat_eq
  rw [BitVec.toNat_setWidth, h1, Nat.mod_eq_of_lt hn]

/-- The word a `lowBits` read came from. -/
theorem setWidth_of_lowBits {n : Nat} {w : EntryWord} {v : BitVec n} (hv : lowBits n w = .ok v) :
    v.setWidth 64 = w := by
  unfold lowBits at hv
  split at hv
  · injection hv with hv
    subst hv
    apply BitVec.eq_of_toNat_eq
    rw [BitVec.toNat_setWidth, BitVec.toNat_setWidth, Nat.mod_eq_of_lt (a := w.toNat) (by assumption),
      Nat.mod_eq_of_lt w.isLt]
  · cases hv

end Sys2Proof
end

