-- ==== Sys2Proof/Laws/Encoding.lean ====
section
/-! SUPPORT. How the decoder reads each form the encoder writes; the two ways round. -/

namespace Sys2Proof

/-! ## Byte words -/

/-- A byte address a byte word can hold: a mapped one has 24 bits. -/
def addrFits (a : ByteAddr) : Prop :=
  match a with
  | .mapped o => o < 2 ^ 24
  | .port _ => True

theorem packByte_port_eq (p : BitVec 16) (b : Byte) : packByte (.port p) b = 1#32 ++ b ++ (0#8 ++ p) := by
  apply BitVec.eq_of_toNat_eq
  have h1 : (1#32 ++ b ++ 0#8 ++ p).toNat = ((1 * 2 ^ 8 + b.toNat) * 2 ^ 8 + 0) * 2 ^ 16 + p.toNat := by
    rw [BitVec.toNat_append, BitVec.toNat_append, BitVec.toNat_append, ← Nat.shiftLeft_add_eq_or_of_lt p.isLt,
      ← Nat.shiftLeft_add_eq_or_of_lt (0#8).isLt, ← Nat.shiftLeft_add_eq_or_of_lt b.isLt]
    simp [Nat.shiftLeft_eq]
  have h2 : (1#32 ++ b ++ (0#8 ++ p)).toNat = (1 * 2 ^ 8 + b.toNat) * 2 ^ 24 + (0 * 2 ^ 16 + p.toNat) := by
    rw [BitVec.toNat_append, BitVec.toNat_append, BitVec.toNat_append,
      ← Nat.shiftLeft_add_eq_or_of_lt (i := 8 + 16) (by rw [← BitVec.toNat_append]; exact (0#8 ++ p).isLt),
      ← Nat.shiftLeft_add_eq_or_of_lt p.isLt, ← Nat.shiftLeft_add_eq_or_of_lt b.isLt]
    simp [Nat.shiftLeft_eq]
  refine Eq.trans h1 (Eq.trans ?_ h2.symm)
  omega

theorem decodeByteAddr_of_mapped (b : Byte) (c : BitVec 24) :
    decodeByteAddr (0#32 ++ b ++ c) = .ok (.mapped c.toNat) := by
  have h1 : (0#32 ++ b ++ c).extractLsb' 33 31 = 0#31 := by
    rw [extract_append_high (0#32 ++ b) c (by omega), extract_append_high 0#32 b (by omega)]
    decide
  have h2 : (0#32 ++ b ++ c).getLsbD 32 = false := by
    rw [BitVec.getLsbD_append, BitVec.getLsbD_append]; simp
  have h3 : (0#32 ++ b ++ c).extractLsb' 0 24 = c := low_of_two (0#32 ++ b) c
  unfold decodeByteAddr
  erw [if_pos h1, h2]
  simp only [Bool.false_eq_true, if_false]
  exact congrArg (fun v : BitVec 24 => Except.ok (ByteAddr.mapped v.toNat)) h3

theorem decodeByteAddr_of_port (b : Byte) (p : BitVec 16) :
    decodeByteAddr (1#32 ++ b ++ (0#8 ++ p)) = .ok (.port p) := by
  have h1 : (1#32 ++ b ++ (0#8 ++ p)).extractLsb' 33 31 = 0#31 := by
    rw [extract_append_high (1#32 ++ b) (0#8 ++ p) (by omega), extract_append_high 1#32 b (by omega)]
    decide
  have h2 : (1#32 ++ b ++ (0#8 ++ p)).getLsbD 32 = true :=
    (bit_append_high (1#32 ++ b) (0#8 ++ p) (i := 32) (by omega)).trans
      (bit_append_high 1#32 b (i := 8) (by omega))
  have h3 : (1#32 ++ b ++ (0#8 ++ p)).extractLsb' 0 24 = 0#8 ++ p := low_of_two (1#32 ++ b) (0#8 ++ p)
  unfold decodeByteAddr
  erw [if_pos h1, h2, h3, portOfAddr_of_port p]
  rfl

/-- The address of a byte word reads back. -/
theorem decodeByteAddr_pack (a : ByteAddr) (b : Byte) (h : addrFits a) :
    decodeByteAddr (packByte a b) = .ok a := by
  cases a with
  | mapped o =>
    have h : o < 2 ^ 24 := h
    have := decodeByteAddr_of_mapped b (BitVec.ofNat 24 o)
    rw [BitVec.toNat_ofNat, Nat.mod_eq_of_lt h] at this
    exact this
  | port p =>
    rw [packByte_port_eq]
    exact decodeByteAddr_of_port b p

/-- The byte of a byte word reads back. -/
theorem byte_of_pack (a : ByteAddr) (b : Byte) : (packByte a b).extractLsb' 24 8 = b := by
  cases a with
  | mapped o => exact mid_of_three 0#32 b (BitVec.ofNat 24 o)
  | port p =>
    rw [packByte_port_eq]
    exact mid_of_three 1#32 b (0#8 ++ p)

theorem decode_byteWrite (a : ByteAddr) (b : Byte) (h : addrFits a) :
    decode .byteWrite (packByte a b) = .ok (byteWriteInstr a b) := by
  show decodeByteWrite _ = _
  rw [decodeByteWrite, decodeByteAddr_pack a b h, byte_of_pack]
  rfl

theorem decode_byteRead (a : ByteAddr) (h : addrFits a) :
    decode .byteRead (packByte a 0#8) = .ok (byteReadInstr a) := by
  show decodeByteRead _ = _
  rw [decodeByteRead, decodeByteAddr_pack a 0#8 h, byte_of_pack]
  rfl

/-- A lane of a register decodes to it, in both spaces. -/
theorem decodeAddr_lane (r : RegName) (sp : BusSpace) (lane : BitVec 2) :
    decodeAddr (laneAddr sp (r.port lane)) = .reg r lane := by
  revert lane; cases r <;> cases sp <;> decide

/-- A lane of PIX_TRANS decodes to a pixel byte, in both spaces. -/
theorem decodeAddr_pixTrans (sp : BusSpace) (lane : BitVec 2) :
    decodeAddr (laneAddr sp (pixTransBase + lane.setWidth 16)) = .pixel lane := by
  revert lane; cases sp <;> decide

theorem space_laneAddr (sp : BusSpace) (p : BitVec 16) : (laneAddr sp p).space = sp := by
  cases sp <;> rfl

theorem addrFits_lane (sp : BusSpace) (p : BitVec 16) : addrFits (laneAddr sp p) := by
  cases sp
  · exact Nat.lt_trans p.isLt (by omega)
  · trivial

theorem decode_encodeW (r : RegName) (sp : BusSpace) (lane : BitVec 2) (b : Byte) :
    decode (encodeW r sp lane b).1 (encodeW r sp lane b).2 = .ok (wInstr r sp lane b) := by
  refine (decode_byteWrite _ b (addrFits_lane sp _)).trans ?_
  rw [byteWriteInstr, decodeAddr_lane, space_laneAddr]

theorem decode_encodeR (r : RegName) (sp : BusSpace) (lane : BitVec 2) :
    decode (encodeR r sp lane).1 (encodeR r sp lane).2 = .ok (rInstr r sp lane) := by
  refine (decode_byteRead _ (addrFits_lane sp _)).trans ?_
  rw [byteReadInstr, decodeAddr_lane, space_laneAddr]

theorem byteWriteInstr_pixTrans (sp : BusSpace) (lane : BitVec 2) (b : Byte) :
    byteWriteInstr (laneAddr sp (pixTransBase + lane.setWidth 16)) b = .wPixTrans sp lane b := by
  rw [byteWriteInstr, decodeAddr_pixTrans]
  cases sp with
  | mapped =>
    have : ∀ l : BitVec 2, ¬ ((pixTransBase + l.setWidth 16).toNat < 0x8000) := by decide
    exact if_neg (this lane)
  | port => rfl

theorem byteReadInstr_pixTrans (sp : BusSpace) (lane : BitVec 2) :
    byteReadInstr (laneAddr sp (pixTransBase + lane.setWidth 16)) = .rPixTrans sp lane := by
  rw [byteReadInstr, decodeAddr_pixTrans]
  cases sp with
  | mapped =>
    have : ∀ l : BitVec 2, ¬ ((pixTransBase + l.setWidth 16).toNat < 0x8000) := by decide
    exact if_neg (this lane)
  | port => rfl

/-- A mapped offset below 0x8000 is in the pixel-transfer window. -/
theorem decodeMapped_window {n : Nat} (h : n < 0x8000) : decodeMapped n = .pixel (BitVec.ofNat 2 n) := by
  unfold decodeMapped
  rw [if_neg (by omega), if_pos h]

theorem byteWriteInstr_window (o : BitVec 15) (b : Byte) :
    byteWriteInstr (.mapped o.toNat) b = .wPixTransWindow o b := by
  have h : o.toNat < 0x8000 := o.isLt
  simp only [byteWriteInstr, decodeAddr, decodeMapped_window h, if_pos h, BitVec.ofNat_toNat, BitVec.setWidth_eq]

theorem byteReadInstr_window (o : BitVec 15) :
    byteReadInstr (.mapped o.toNat) = .rPixTransWindow o := by
  have h : o.toNat < 0x8000 := o.isLt
  simp only [byteReadInstr, decodeAddr, decodeMapped_window h, if_pos h, BitVec.ofNat_toNat, BitVec.setWidth_eq]

theorem addrFits_window (o : BitVec 15) : addrFits (.mapped o.toNat) :=
  Nat.lt_trans o.isLt (by omega)

theorem noneAddrWf_iff (a : ByteAddr) : noneAddrWf a = true ↔ decodeAddr a = .none ∧ addrFits a := by
  cases a <;> simp [noneAddrWf, addrFits]

/-! ## Register words -/

theorem decode_cmd (w : BitVec 16) : decode .cmd (w.setWidth 64) = .ok (decodeCmd w) := by
  show (lowBits 16 _).map decodeCmd = _
  rw [lowBits_setWidth 16 (by omega)]; rfl

theorem decode_lineMode (w : BitVec 16) : decode .lineMode (w.setWidth 64) = decodeLineMode w := by
  show (lowBits 16 _).bind decodeLineMode = _
  rw [lowBits_setWidth 16 (by omega)]; rfl

theorem decode_mix (w : BitVec 16) : decode .mix (w.setWidth 64) = .ok (decodeMix w) := by
  show (lowBits 16 _).map decodeMix = _
  rw [lowBits_setWidth 16 (by omega)]; rfl

theorem decode_src (w : BitVec 16) : decode .src (w.setWidth 64) = .ok (decodeSrc w) := by
  show (lowBits 16 _).map decodeSrc = _
  rw [lowBits_setWidth 16 (by omega)]; rfl

theorem decode_mixSel (w : BitVec 12) : decode .mixSel (w.setWidth 64) = .ok (decodeMixSel w) := by
  show (lowBits 12 _).map decodeMixSel = _
  rw [lowBits_setWidth 12 (by omega)]; rfl

theorem decode_cmp (w : BitVec 12) : decode .cmp (w.setWidth 64) = .ok (decodeCmp w) := by
  show (lowBits 12 _).map decodeCmp = _
  rw [lowBits_setWidth 12 (by omega)]; rfl

theorem decode_multifunc (w : BitVec 16) : decode .multifunc (w.setWidth 64) = .ok (decodeMultifunc w) := by
  show (lowBits 16 _).map decodeMultifunc = _
  rw [lowBits_setWidth 16 (by omega)]; rfl

theorem decode_cmd_word (c : BitVec 3) (lo : BitVec 13) :
    decodeCmd (cmdWord c lo) =
      match c.toNat with
      | 0 => .cmdNop lo
      | 1 => .cmdLine lo
      | 2 => .cmdRect lo
      | 3 => .cmdRsv3 lo
      | 4 => .cmdRsv4 lo
      | 5 => .cmdRsv5 lo
      | 6 => .cmdBlit lo
      | _ => .cmdPat lo := by
  have h1 : (cmdWord c lo).extractLsb' 13 3 = c := high_of_two c lo
  have h2 : (cmdWord c lo).extractLsb' 0 13 = lo := low_of_two c lo
  unfold decodeCmd
  rw [h1, h2] <;> rfl

theorem decode_line_word (hi : BitVec 9) (r : BitVec 1) (lo : BitVec 3) :
    decodeLineMode (lineWord hi r lo) =
      .ok (if r = 1#1 then .cmdLineRadial hi lo else .cmdLineBresenham hi lo) := by
  have h1 : (lineWord hi r lo).extractLsb' 13 3 = 1#3 := by
    refine (extract_append_high (1#3 ++ hi ++ r) lo (by omega)).trans ?_
    exact high_of_three 1#3 hi r
  have h2 : (lineWord hi r lo).extractLsb' 4 9 = hi := by
    refine (extract_append_high (1#3 ++ hi ++ r) lo (by omega)).trans ?_
    exact mid_of_three 1#3 hi r
  have h3 : (lineWord hi r lo).extractLsb' 0 3 = lo := low_of_two (1#3 ++ hi ++ r) lo
  have h4 : (lineWord hi r lo).getLsbD 3 = r.getLsbD 0 := by
    refine (bit_append_high (1#3 ++ hi ++ r) lo (i := 3) (by omega)).trans ?_
    exact bit_append_low (1#3 ++ hi) r (by omega)
  unfold decodeLineMode
  rw [if_pos h1, h2, h3, h4]
  have hr : r = 0#1 ∨ r = 1#1 := by
    clear h1 h2 h3 h4
    revert r; decide
  rcases hr with hr | hr <;> subst hr <;> rfl

theorem decode_mix_word (hi : BitVec 12) (c : BitVec 4) :
    decodeMix (hi ++ c) =
      match c.toNat with
      | 0 => .mixNotD hi
      | 1 => .mixZero hi
      | 2 => .mixOne hi
      | 3 => .mixD hi
      | 4 => .mixNotS hi
      | 5 => .mixSXorD hi
      | 6 => .mixSXnorD hi
      | 7 => .mixS hi
      | 8 => .mixSNandD hi
      | 9 => .mixNotSOrD hi
      | 10 => .mixSOrNotD hi
      | 11 => .mixSOrD hi
      | 12 => .mixSAndD hi
      | 13 => .mixSAndNotD hi
      | 14 => .mixNotSAndD hi
      | _ => .mixSNorD hi := by
  have h1 : (hi ++ c).extractLsb' 4 12 = hi := high_of_two hi c
  have h2 : (hi ++ c).extractLsb' 0 4 = c := low_of_two hi c
  unfold decodeMix
  erw [h1, h2] <;> rfl

theorem decode_multifunc_word (c : BitVec 4) (data : Slot12) :
    decodeMultifunc (c ++ data) =
      match c.toNat with
      | 0 => .mfMinAxisPcnt data
      | 1 => .mfScissorsT data
      | 2 => .mfScissorsL data
      | 3 => .mfScissorsB data
      | 4 => .mfScissorsR data
      | 5 => .mfSlot5 data
      | 6 => .mfSlot6 data
      | 7 => .mfSlot7 data
      | 8 => .mfSlot8 data
      | 9 => .mfSlot9 data
      | 10 => .mfPixCntl data
      | 11 => .mfSlotb data
      | 12 => .mfSlotc data
      | 13 => .mfSlotd data
      | 14 => .mfMultMisc data
      | _ => .mfReadSel data := by
  have h1 : (c ++ data).extractLsb' 12 4 = c := high_of_two c data
  have h2 : (c ++ data).extractLsb' 0 12 = data := low_of_two c data
  unfold decodeMultifunc
  erw [h1, h2] <;> rfl

theorem decode_src_word (hi : BitVec 9) (c : BitVec 2) (lo : BitVec 5) :
    decodeSrc (hi ++ c ++ lo) =
      match c.toNat with
      | 0 => .srcBkgdColor hi lo
      | 1 => .srcFrgdColor hi lo
      | 2 => .srcCpuData hi lo
      | _ => .srcDisplayMemory hi lo := by
  have h1 : (hi ++ c ++ lo).extractLsb' 7 9 = hi := high_of_three hi c lo
  have h2 : (hi ++ c ++ lo).extractLsb' 5 2 = c := mid_of_three hi c lo
  have h3 : (hi ++ c ++ lo).extractLsb' 0 5 = lo := low_of_two (hi ++ c) lo
  unfold decodeSrc
  erw [h1, h2, h3] <;> rfl

theorem decode_mixSel_word (hi : BitVec 4) (c : BitVec 2) (lo : BitVec 6) :
    decodeMixSel (hi ++ c ++ lo) =
      match c.toNat with
      | 0 => .mixselAlwaysFg hi lo
      | 1 => .mixselReservedAs0 hi lo
      | 2 => .mixselCpuData hi lo
      | _ => .mixselDisplayMemory hi lo := by
  have h1 : (hi ++ c ++ lo).extractLsb' 8 4 = hi := high_of_three hi c lo
  have h2 : (hi ++ c ++ lo).extractLsb' 6 2 = c := mid_of_three hi c lo
  have h3 : (hi ++ c ++ lo).extractLsb' 0 6 = lo := low_of_two (hi ++ c) lo
  unfold decodeMixSel
  erw [h1, h2, h3] <;> rfl

theorem decode_cmp_word (hi : BitVec 3) (c : BitVec 2) (lo : BitVec 7) :
    decodeCmp (hi ++ c ++ lo) =
      match c.toNat with
      | 0 => .cmpAlways hi lo
      | 1 => .cmpNever hi lo
      | 2 => .cmpNe hi lo
      | _ => .cmpEq hi lo := by
  have h1 : (hi ++ c ++ lo).extractLsb' 9 3 = hi := high_of_three hi c lo
  have h2 : (hi ++ c ++ lo).extractLsb' 7 2 = c := mid_of_three hi c lo
  have h3 : (hi ++ c ++ lo).extractLsb' 0 7 = lo := low_of_two (hi ++ c) lo
  unfold decodeCmp
  erw [h1, h2, h3] <;> rfl

theorem decode_config {pb pitch vramBytes : Nat} (h : (Instr.config pb pitch vramBytes).wf = true) :
    decode (encode (.config pb pitch vramBytes)).1 (encode (.config pb pitch vramBytes)).2 =
      .ok (.config pb pitch vramBytes) := by
  simp only [Instr.wf, Bool.and_eq_true, decide_eq_true_eq] at h
  obtain ⟨⟨h1, h2⟩, h3⟩ := h
  generalize hw : 11#8 ++ BitVec.ofNat 32 vramBytes ++ BitVec.ofNat 16 pitch ++ BitVec.ofNat 8 pb = w
  have e0 : entryType w = 11#8 := by
    subst hw
    refine (extract_append_high (11#8 ++ BitVec.ofNat 32 vramBytes ++ BitVec.ofNat 16 pitch)
      (BitVec.ofNat 8 pb) (by omega)).trans ?_
    exact high_of_three 11#8 (BitVec.ofNat 32 vramBytes) (BitVec.ofNat 16 pitch)
  have e1 : w.extractLsb' 0 8 = BitVec.ofNat 8 pb := by
    subst hw
    exact low_of_two (11#8 ++ BitVec.ofNat 32 vramBytes ++ BitVec.ofNat 16 pitch) (BitVec.ofNat 8 pb)
  have e2 : w.extractLsb' 8 16 = BitVec.ofNat 16 pitch := by
    subst hw
    exact mid_of_three (11#8 ++ BitVec.ofNat 32 vramBytes) (BitVec.ofNat 16 pitch) (BitVec.ofNat 8 pb)
  have e3 : w.extractLsb' 24 32 = BitVec.ofNat 32 vramBytes := by
    subst hw
    refine (extract_append_high (11#8 ++ BitVec.ofNat 32 vramBytes ++ BitVec.ofNat 16 pitch)
      (BitVec.ofNat 8 pb) (by omega)).trans ?_
    exact mid_of_three 11#8 (BitVec.ofNat 32 vramBytes) (BitVec.ofNat 16 pitch)
  have e : (encode (.config pb pitch vramBytes)).2 = w := hw
  rw [e]
  show decodeAgent w = _
  unfold decodeAgent
  rw [e0, e1, e2, e3]
  simp only [BitVec.toNat_ofNat, Nat.mod_eq_of_lt h1, Nat.mod_eq_of_lt h2, Nat.mod_eq_of_lt h3]

/-! ## Agent words -/

theorem ifNoOperand_pack (c : BitVec 8) (i : Instr) : ifNoOperand (packEntry c 0#24 0#32) i = .ok i := by
  have h : (packEntry c 0#24 0#32).extractLsb' 0 56 = 0#56 := by
    have e : packEntry c 0#24 0#32 = c ++ 0#56 := by
      apply BitVec.eq_of_getLsbD_eq
      intro j hj
      unfold packEntry
      rw [BitVec.getLsbD_append, BitVec.getLsbD_append, BitVec.getLsbD_append]
      by_cases h1 : j < 32
      · simp [h1, show j < 56 by omega]
      · by_cases h2 : j - 32 < 24
        · simp [h1, h2, show j < 56 by omega]
        · simp [h1, h2, show ¬ j < 56 by omega, show j - 32 - 24 = j - 56 by omega]
    rw [e]; exact low_of_two c 0#56
  exact if_pos h

/-- The one-bit name of a space in a read word. -/
def spaceBit (sp : BusSpace) : BitVec 1 :=
  match sp with
  | .mapped => 0#1
  | .port => 1#1

theorem packReadAccess_eq (c : BitVec 8) (a : Access) :
    packReadAccess c a = c ++ a.addr ++ 0#23 ++ spaceBit a.space ++ BitVec.ofNat 8 a.width.bytes := by
  unfold packReadAccess spaceBit
  cases a.space <;> rfl

theorem entryType_read (c : BitVec 8) (a : Access) : entryType (packReadAccess c a) = c := by
  rw [packReadAccess_eq]
  refine (extract_append_high (c ++ a.addr ++ 0#23 ++ spaceBit a.space) (BitVec.ofNat 8 a.width.bytes) (by omega)).trans ?_
  refine (extract_append_high (c ++ a.addr ++ 0#23) (spaceBit a.space) (by omega)).trans ?_
  exact high_of_three c a.addr 0#23

theorem entryOffset_read (c : BitVec 8) (a : Access) : entryOffset (packReadAccess c a) = a.addr := by
  rw [packReadAccess_eq]
  refine (extract_append_high (c ++ a.addr ++ 0#23 ++ spaceBit a.space) (BitVec.ofNat 8 a.width.bytes) (by omega)).trans ?_
  refine (extract_append_high (c ++ a.addr ++ 0#23) (spaceBit a.space) (by omega)).trans ?_
  exact mid_of_three c a.addr 0#23

theorem widthOfBytes_bytes (w : Width) : widthOfBytes (BitVec.ofNat 8 w.bytes) = .ok w := by
  cases w <;> rfl

/-- A well-formed read access reads back. -/
theorem decodeReadAccess_pack (c : BitVec 8) (a : Access) (h : a.wf = true) :
    decodeReadAccess (packReadAccess c a) = .ok a := by
  have h1 : (packReadAccess c a).extractLsb' 9 23 = 0#23 := by
    rw [packReadAccess_eq]
    refine (extract_append_high (c ++ a.addr ++ 0#23 ++ spaceBit a.space) (BitVec.ofNat 8 a.width.bytes) (by omega)).trans ?_
    exact mid_of_three (c ++ a.addr) 0#23 (spaceBit a.space)
  have h2 : (packReadAccess c a).extractLsb' 0 8 = BitVec.ofNat 8 a.width.bytes := by
    rw [packReadAccess_eq]
    exact low_of_two (c ++ a.addr ++ 0#23 ++ spaceBit a.space) (BitVec.ofNat 8 a.width.bytes)
  have h3 : (packReadAccess c a).getLsbD 8 = (spaceBit a.space).getLsbD 0 := by
    rw [packReadAccess_eq]
    refine (bit_append_high (c ++ a.addr ++ 0#23 ++ spaceBit a.space) (BitVec.ofNat 8 a.width.bytes)
      (i := 8) (by omega)).trans ?_
    exact bit_append_low (c ++ a.addr ++ 0#23) (spaceBit a.space) (by omega)
  unfold decodeReadAccess
  rw [if_pos h1, h2, widthOfBytes_bytes, h3, entryOffset_read]
  obtain ⟨sp, addr, w⟩ := a
  cases sp with
  | mapped => simp [spaceBit, Except.bind]
  | port =>
    have hp : portOfAddr addr = .ok (addr.extractLsb' 0 16) := by
      unfold portOfAddr
      rw [if_pos (by simpa [Access.wf] using h)]
    simp [spaceBit, Except.bind, hp, Except.map]

end Sys2Proof
end

