-- ==== Sys2Proof/Laws/State.lean ====
section
/-! SUPPORT. One lemma per field per update of the state, true by `rfl`. -/

namespace Sys2Proof.Machine

variable (s : State)

/-! ## withParams -/

@[simp] theorem State.withParams_params (p : Params) : (s.withParams p).params = p := rfl
@[simp] theorem State.withParams_queue (p : Params) : (s.withParams p).queue = s.queue := rfl
@[simp] theorem State.withParams_wakePending (p : Params) : (s.withParams p).wakePending = s.wakePending := rfl
@[simp] theorem State.withParams_stop (p : Params) : (s.withParams p).stop = s.stop := rfl
@[simp] theorem State.withParams_cstate (p : Params) : (s.withParams p).cstate = s.cstate := rfl
@[simp] theorem State.withParams_busy (p : Params) : (s.withParams p).busy = s.busy := rfl
@[simp] theorem State.withParams_pstate (p : Params) : (s.withParams p).pstate = s.pstate := rfl
@[simp] theorem State.withParams_hstate (p : Params) : (s.withParams p).hstate = s.hstate := rfl
@[simp] theorem State.withParams_regs (p : Params) : (s.withParams p).regs = s.regs := rfl
@[simp] theorem State.withParams_ex (p : Params) : (s.withParams p).ex = s.ex := rfl
@[simp] theorem State.withParams_pipe (p : Params) : (s.withParams p).pipe = s.pipe := rfl
@[simp] theorem State.withParams_fb (p : Params) : (s.withParams p).fb = s.fb := rfl
@[simp] theorem State.withParams_dirty (p : Params) : (s.withParams p).dirty = s.dirty := rfl
@[simp] theorem State.withParams_out (p : Params) : (s.withParams p).out = s.out := rfl
@[simp] theorem State.withParams_inputs (p : Params) : (s.withParams p).inputs = s.inputs := rfl
@[simp] theorem State.withParams_freeCtr (p : Params) : (s.withParams p).freeCtr = s.freeCtr := rfl

/-! ## withQueue -/

@[simp] theorem State.withQueue_params (q : Queue) : (s.withQueue q).params = s.params := rfl
@[simp] theorem State.withQueue_queue (q : Queue) : (s.withQueue q).queue = q := rfl
@[simp] theorem State.withQueue_wakePending (q : Queue) : (s.withQueue q).wakePending = s.wakePending := rfl
@[simp] theorem State.withQueue_stop (q : Queue) : (s.withQueue q).stop = s.stop := rfl
@[simp] theorem State.withQueue_cstate (q : Queue) : (s.withQueue q).cstate = s.cstate := rfl
@[simp] theorem State.withQueue_busy (q : Queue) : (s.withQueue q).busy = s.busy := rfl
@[simp] theorem State.withQueue_pstate (q : Queue) : (s.withQueue q).pstate = s.pstate := rfl
@[simp] theorem State.withQueue_hstate (q : Queue) : (s.withQueue q).hstate = s.hstate := rfl
@[simp] theorem State.withQueue_regs (q : Queue) : (s.withQueue q).regs = s.regs := rfl
@[simp] theorem State.withQueue_ex (q : Queue) : (s.withQueue q).ex = s.ex := rfl
@[simp] theorem State.withQueue_pipe (q : Queue) : (s.withQueue q).pipe = s.pipe := rfl
@[simp] theorem State.withQueue_fb (q : Queue) : (s.withQueue q).fb = s.fb := rfl
@[simp] theorem State.withQueue_dirty (q : Queue) : (s.withQueue q).dirty = s.dirty := rfl
@[simp] theorem State.withQueue_out (q : Queue) : (s.withQueue q).out = s.out := rfl
@[simp] theorem State.withQueue_inputs (q : Queue) : (s.withQueue q).inputs = s.inputs := rfl
@[simp] theorem State.withQueue_freeCtr (q : Queue) : (s.withQueue q).freeCtr = s.freeCtr := rfl

/-! ## withWake -/

@[simp] theorem State.withWake_params (b : Bool) : (s.withWake b).params = s.params := rfl
@[simp] theorem State.withWake_queue (b : Bool) : (s.withWake b).queue = s.queue := rfl
@[simp] theorem State.withWake_wakePending (b : Bool) : (s.withWake b).wakePending = b := rfl
@[simp] theorem State.withWake_stop (b : Bool) : (s.withWake b).stop = s.stop := rfl
@[simp] theorem State.withWake_cstate (b : Bool) : (s.withWake b).cstate = s.cstate := rfl
@[simp] theorem State.withWake_busy (b : Bool) : (s.withWake b).busy = s.busy := rfl
@[simp] theorem State.withWake_pstate (b : Bool) : (s.withWake b).pstate = s.pstate := rfl
@[simp] theorem State.withWake_hstate (b : Bool) : (s.withWake b).hstate = s.hstate := rfl
@[simp] theorem State.withWake_regs (b : Bool) : (s.withWake b).regs = s.regs := rfl
@[simp] theorem State.withWake_ex (b : Bool) : (s.withWake b).ex = s.ex := rfl
@[simp] theorem State.withWake_pipe (b : Bool) : (s.withWake b).pipe = s.pipe := rfl
@[simp] theorem State.withWake_fb (b : Bool) : (s.withWake b).fb = s.fb := rfl
@[simp] theorem State.withWake_dirty (b : Bool) : (s.withWake b).dirty = s.dirty := rfl
@[simp] theorem State.withWake_out (b : Bool) : (s.withWake b).out = s.out := rfl
@[simp] theorem State.withWake_inputs (b : Bool) : (s.withWake b).inputs = s.inputs := rfl
@[simp] theorem State.withWake_freeCtr (b : Bool) : (s.withWake b).freeCtr = s.freeCtr := rfl

/-! ## withStop -/

@[simp] theorem State.withStop_params (b : Bool) : (s.withStop b).params = s.params := rfl
@[simp] theorem State.withStop_queue (b : Bool) : (s.withStop b).queue = s.queue := rfl
@[simp] theorem State.withStop_wakePending (b : Bool) : (s.withStop b).wakePending = s.wakePending := rfl
@[simp] theorem State.withStop_stop (b : Bool) : (s.withStop b).stop = b := rfl
@[simp] theorem State.withStop_cstate (b : Bool) : (s.withStop b).cstate = s.cstate := rfl
@[simp] theorem State.withStop_busy (b : Bool) : (s.withStop b).busy = s.busy := rfl
@[simp] theorem State.withStop_pstate (b : Bool) : (s.withStop b).pstate = s.pstate := rfl
@[simp] theorem State.withStop_hstate (b : Bool) : (s.withStop b).hstate = s.hstate := rfl
@[simp] theorem State.withStop_regs (b : Bool) : (s.withStop b).regs = s.regs := rfl
@[simp] theorem State.withStop_ex (b : Bool) : (s.withStop b).ex = s.ex := rfl
@[simp] theorem State.withStop_pipe (b : Bool) : (s.withStop b).pipe = s.pipe := rfl
@[simp] theorem State.withStop_fb (b : Bool) : (s.withStop b).fb = s.fb := rfl
@[simp] theorem State.withStop_dirty (b : Bool) : (s.withStop b).dirty = s.dirty := rfl
@[simp] theorem State.withStop_out (b : Bool) : (s.withStop b).out = s.out := rfl
@[simp] theorem State.withStop_inputs (b : Bool) : (s.withStop b).inputs = s.inputs := rfl
@[simp] theorem State.withStop_freeCtr (b : Bool) : (s.withStop b).freeCtr = s.freeCtr := rfl

/-! ## withConsumer -/

@[simp] theorem State.withConsumer_params (c : CState) (b : Bool) : (s.withConsumer c b).params = s.params := rfl
@[simp] theorem State.withConsumer_queue (c : CState) (b : Bool) : (s.withConsumer c b).queue = s.queue := rfl
@[simp] theorem State.withConsumer_wakePending (c : CState) (b : Bool) : (s.withConsumer c b).wakePending = s.wakePending := rfl
@[simp] theorem State.withConsumer_stop (c : CState) (b : Bool) : (s.withConsumer c b).stop = s.stop := rfl
@[simp] theorem State.withConsumer_cstate (c : CState) (b : Bool) : (s.withConsumer c b).cstate = c := rfl
@[simp] theorem State.withConsumer_busy (c : CState) (b : Bool) : (s.withConsumer c b).busy = b := rfl
@[simp] theorem State.withConsumer_pstate (c : CState) (b : Bool) : (s.withConsumer c b).pstate = s.pstate := rfl
@[simp] theorem State.withConsumer_hstate (c : CState) (b : Bool) : (s.withConsumer c b).hstate = s.hstate := rfl
@[simp] theorem State.withConsumer_regs (c : CState) (b : Bool) : (s.withConsumer c b).regs = s.regs := rfl
@[simp] theorem State.withConsumer_ex (c : CState) (b : Bool) : (s.withConsumer c b).ex = s.ex := rfl
@[simp] theorem State.withConsumer_pipe (c : CState) (b : Bool) : (s.withConsumer c b).pipe = s.pipe := rfl
@[simp] theorem State.withConsumer_fb (c : CState) (b : Bool) : (s.withConsumer c b).fb = s.fb := rfl
@[simp] theorem State.withConsumer_dirty (c : CState) (b : Bool) : (s.withConsumer c b).dirty = s.dirty := rfl
@[simp] theorem State.withConsumer_out (c : CState) (b : Bool) : (s.withConsumer c b).out = s.out := rfl
@[simp] theorem State.withConsumer_inputs (c : CState) (b : Bool) : (s.withConsumer c b).inputs = s.inputs := rfl
@[simp] theorem State.withConsumer_freeCtr (c : CState) (b : Bool) : (s.withConsumer c b).freeCtr = s.freeCtr := rfl

/-! ## withPState -/

@[simp] theorem State.withPState_params (p : PState) : (s.withPState p).params = s.params := rfl
@[simp] theorem State.withPState_queue (p : PState) : (s.withPState p).queue = s.queue := rfl
@[simp] theorem State.withPState_wakePending (p : PState) : (s.withPState p).wakePending = s.wakePending := rfl
@[simp] theorem State.withPState_stop (p : PState) : (s.withPState p).stop = s.stop := rfl
@[simp] theorem State.withPState_cstate (p : PState) : (s.withPState p).cstate = s.cstate := rfl
@[simp] theorem State.withPState_busy (p : PState) : (s.withPState p).busy = s.busy := rfl
@[simp] theorem State.withPState_pstate (p : PState) : (s.withPState p).pstate = p := rfl
@[simp] theorem State.withPState_hstate (p : PState) : (s.withPState p).hstate = s.hstate := rfl
@[simp] theorem State.withPState_regs (p : PState) : (s.withPState p).regs = s.regs := rfl
@[simp] theorem State.withPState_ex (p : PState) : (s.withPState p).ex = s.ex := rfl
@[simp] theorem State.withPState_pipe (p : PState) : (s.withPState p).pipe = s.pipe := rfl
@[simp] theorem State.withPState_fb (p : PState) : (s.withPState p).fb = s.fb := rfl
@[simp] theorem State.withPState_dirty (p : PState) : (s.withPState p).dirty = s.dirty := rfl
@[simp] theorem State.withPState_out (p : PState) : (s.withPState p).out = s.out := rfl
@[simp] theorem State.withPState_inputs (p : PState) : (s.withPState p).inputs = s.inputs := rfl
@[simp] theorem State.withPState_freeCtr (p : PState) : (s.withPState p).freeCtr = s.freeCtr := rfl

/-! ## withHState -/

@[simp] theorem State.withHState_params (h : HState) : (s.withHState h).params = s.params := rfl
@[simp] theorem State.withHState_queue (h : HState) : (s.withHState h).queue = s.queue := rfl
@[simp] theorem State.withHState_wakePending (h : HState) : (s.withHState h).wakePending = s.wakePending := rfl
@[simp] theorem State.withHState_stop (h : HState) : (s.withHState h).stop = s.stop := rfl
@[simp] theorem State.withHState_cstate (h : HState) : (s.withHState h).cstate = s.cstate := rfl
@[simp] theorem State.withHState_busy (h : HState) : (s.withHState h).busy = s.busy := rfl
@[simp] theorem State.withHState_pstate (h : HState) : (s.withHState h).pstate = s.pstate := rfl
@[simp] theorem State.withHState_hstate (h : HState) : (s.withHState h).hstate = h := rfl
@[simp] theorem State.withHState_regs (h : HState) : (s.withHState h).regs = s.regs := rfl
@[simp] theorem State.withHState_ex (h : HState) : (s.withHState h).ex = s.ex := rfl
@[simp] theorem State.withHState_pipe (h : HState) : (s.withHState h).pipe = s.pipe := rfl
@[simp] theorem State.withHState_fb (h : HState) : (s.withHState h).fb = s.fb := rfl
@[simp] theorem State.withHState_dirty (h : HState) : (s.withHState h).dirty = s.dirty := rfl
@[simp] theorem State.withHState_out (h : HState) : (s.withHState h).out = s.out := rfl
@[simp] theorem State.withHState_inputs (h : HState) : (s.withHState h).inputs = s.inputs := rfl
@[simp] theorem State.withHState_freeCtr (h : HState) : (s.withHState h).freeCtr = s.freeCtr := rfl

/-! ## withRegs -/

@[simp] theorem State.withRegs_params (r : Regs) : (s.withRegs r).params = s.params := rfl
@[simp] theorem State.withRegs_queue (r : Regs) : (s.withRegs r).queue = s.queue := rfl
@[simp] theorem State.withRegs_wakePending (r : Regs) : (s.withRegs r).wakePending = s.wakePending := rfl
@[simp] theorem State.withRegs_stop (r : Regs) : (s.withRegs r).stop = s.stop := rfl
@[simp] theorem State.withRegs_cstate (r : Regs) : (s.withRegs r).cstate = s.cstate := rfl
@[simp] theorem State.withRegs_busy (r : Regs) : (s.withRegs r).busy = s.busy := rfl
@[simp] theorem State.withRegs_pstate (r : Regs) : (s.withRegs r).pstate = s.pstate := rfl
@[simp] theorem State.withRegs_hstate (r : Regs) : (s.withRegs r).hstate = s.hstate := rfl
@[simp] theorem State.withRegs_regs (r : Regs) : (s.withRegs r).regs = r := rfl
@[simp] theorem State.withRegs_ex (r : Regs) : (s.withRegs r).ex = s.ex := rfl
@[simp] theorem State.withRegs_pipe (r : Regs) : (s.withRegs r).pipe = s.pipe := rfl
@[simp] theorem State.withRegs_fb (r : Regs) : (s.withRegs r).fb = s.fb := rfl
@[simp] theorem State.withRegs_dirty (r : Regs) : (s.withRegs r).dirty = s.dirty := rfl
@[simp] theorem State.withRegs_out (r : Regs) : (s.withRegs r).out = s.out := rfl
@[simp] theorem State.withRegs_inputs (r : Regs) : (s.withRegs r).inputs = s.inputs := rfl
@[simp] theorem State.withRegs_freeCtr (r : Regs) : (s.withRegs r).freeCtr = s.freeCtr := rfl

/-! ## withEx -/

@[simp] theorem State.withEx_params (e : Ex) : (s.withEx e).params = s.params := rfl
@[simp] theorem State.withEx_queue (e : Ex) : (s.withEx e).queue = s.queue := rfl
@[simp] theorem State.withEx_wakePending (e : Ex) : (s.withEx e).wakePending = s.wakePending := rfl
@[simp] theorem State.withEx_stop (e : Ex) : (s.withEx e).stop = s.stop := rfl
@[simp] theorem State.withEx_cstate (e : Ex) : (s.withEx e).cstate = s.cstate := rfl
@[simp] theorem State.withEx_busy (e : Ex) : (s.withEx e).busy = s.busy := rfl
@[simp] theorem State.withEx_pstate (e : Ex) : (s.withEx e).pstate = s.pstate := rfl
@[simp] theorem State.withEx_hstate (e : Ex) : (s.withEx e).hstate = s.hstate := rfl
@[simp] theorem State.withEx_regs (e : Ex) : (s.withEx e).regs = s.regs := rfl
@[simp] theorem State.withEx_ex (e : Ex) : (s.withEx e).ex = e := rfl
@[simp] theorem State.withEx_pipe (e : Ex) : (s.withEx e).pipe = s.pipe := rfl
@[simp] theorem State.withEx_fb (e : Ex) : (s.withEx e).fb = s.fb := rfl
@[simp] theorem State.withEx_dirty (e : Ex) : (s.withEx e).dirty = s.dirty := rfl
@[simp] theorem State.withEx_out (e : Ex) : (s.withEx e).out = s.out := rfl
@[simp] theorem State.withEx_inputs (e : Ex) : (s.withEx e).inputs = s.inputs := rfl
@[simp] theorem State.withEx_freeCtr (e : Ex) : (s.withEx e).freeCtr = s.freeCtr := rfl

/-! ## withPipe -/

@[simp] theorem State.withPipe_params (p : Pipe) : (s.withPipe p).params = s.params := rfl
@[simp] theorem State.withPipe_queue (p : Pipe) : (s.withPipe p).queue = s.queue := rfl
@[simp] theorem State.withPipe_wakePending (p : Pipe) : (s.withPipe p).wakePending = s.wakePending := rfl
@[simp] theorem State.withPipe_stop (p : Pipe) : (s.withPipe p).stop = s.stop := rfl
@[simp] theorem State.withPipe_cstate (p : Pipe) : (s.withPipe p).cstate = s.cstate := rfl
@[simp] theorem State.withPipe_busy (p : Pipe) : (s.withPipe p).busy = s.busy := rfl
@[simp] theorem State.withPipe_pstate (p : Pipe) : (s.withPipe p).pstate = s.pstate := rfl
@[simp] theorem State.withPipe_hstate (p : Pipe) : (s.withPipe p).hstate = s.hstate := rfl
@[simp] theorem State.withPipe_regs (p : Pipe) : (s.withPipe p).regs = s.regs := rfl
@[simp] theorem State.withPipe_ex (p : Pipe) : (s.withPipe p).ex = s.ex := rfl
@[simp] theorem State.withPipe_pipe (p : Pipe) : (s.withPipe p).pipe = p := rfl
@[simp] theorem State.withPipe_fb (p : Pipe) : (s.withPipe p).fb = s.fb := rfl
@[simp] theorem State.withPipe_dirty (p : Pipe) : (s.withPipe p).dirty = s.dirty := rfl
@[simp] theorem State.withPipe_out (p : Pipe) : (s.withPipe p).out = s.out := rfl
@[simp] theorem State.withPipe_inputs (p : Pipe) : (s.withPipe p).inputs = s.inputs := rfl
@[simp] theorem State.withPipe_freeCtr (p : Pipe) : (s.withPipe p).freeCtr = s.freeCtr := rfl

/-! ## withFb -/

@[simp] theorem State.withFb_params (m : Memory) : (s.withFb m).params = s.params := rfl
@[simp] theorem State.withFb_queue (m : Memory) : (s.withFb m).queue = s.queue := rfl
@[simp] theorem State.withFb_wakePending (m : Memory) : (s.withFb m).wakePending = s.wakePending := rfl
@[simp] theorem State.withFb_stop (m : Memory) : (s.withFb m).stop = s.stop := rfl
@[simp] theorem State.withFb_cstate (m : Memory) : (s.withFb m).cstate = s.cstate := rfl
@[simp] theorem State.withFb_busy (m : Memory) : (s.withFb m).busy = s.busy := rfl
@[simp] theorem State.withFb_pstate (m : Memory) : (s.withFb m).pstate = s.pstate := rfl
@[simp] theorem State.withFb_hstate (m : Memory) : (s.withFb m).hstate = s.hstate := rfl
@[simp] theorem State.withFb_regs (m : Memory) : (s.withFb m).regs = s.regs := rfl
@[simp] theorem State.withFb_ex (m : Memory) : (s.withFb m).ex = s.ex := rfl
@[simp] theorem State.withFb_pipe (m : Memory) : (s.withFb m).pipe = s.pipe := rfl
@[simp] theorem State.withFb_fb (m : Memory) : (s.withFb m).fb = m := rfl
@[simp] theorem State.withFb_dirty (m : Memory) : (s.withFb m).dirty = s.dirty := rfl
@[simp] theorem State.withFb_out (m : Memory) : (s.withFb m).out = s.out := rfl
@[simp] theorem State.withFb_inputs (m : Memory) : (s.withFb m).inputs = s.inputs := rfl
@[simp] theorem State.withFb_freeCtr (m : Memory) : (s.withFb m).freeCtr = s.freeCtr := rfl

/-! ## withDirty -/

@[simp] theorem State.withDirty_params (d : List Nat) : (s.withDirty d).params = s.params := rfl
@[simp] theorem State.withDirty_queue (d : List Nat) : (s.withDirty d).queue = s.queue := rfl
@[simp] theorem State.withDirty_wakePending (d : List Nat) : (s.withDirty d).wakePending = s.wakePending := rfl
@[simp] theorem State.withDirty_stop (d : List Nat) : (s.withDirty d).stop = s.stop := rfl
@[simp] theorem State.withDirty_cstate (d : List Nat) : (s.withDirty d).cstate = s.cstate := rfl
@[simp] theorem State.withDirty_busy (d : List Nat) : (s.withDirty d).busy = s.busy := rfl
@[simp] theorem State.withDirty_pstate (d : List Nat) : (s.withDirty d).pstate = s.pstate := rfl
@[simp] theorem State.withDirty_hstate (d : List Nat) : (s.withDirty d).hstate = s.hstate := rfl
@[simp] theorem State.withDirty_regs (d : List Nat) : (s.withDirty d).regs = s.regs := rfl
@[simp] theorem State.withDirty_ex (d : List Nat) : (s.withDirty d).ex = s.ex := rfl
@[simp] theorem State.withDirty_pipe (d : List Nat) : (s.withDirty d).pipe = s.pipe := rfl
@[simp] theorem State.withDirty_fb (d : List Nat) : (s.withDirty d).fb = s.fb := rfl
@[simp] theorem State.withDirty_dirty (d : List Nat) : (s.withDirty d).dirty = d := rfl
@[simp] theorem State.withDirty_out (d : List Nat) : (s.withDirty d).out = s.out := rfl
@[simp] theorem State.withDirty_inputs (d : List Nat) : (s.withDirty d).inputs = s.inputs := rfl
@[simp] theorem State.withDirty_freeCtr (d : List Nat) : (s.withDirty d).freeCtr = s.freeCtr := rfl

/-! ## withOut -/

@[simp] theorem State.withOut_params (o : Outputs) : (s.withOut o).params = s.params := rfl
@[simp] theorem State.withOut_queue (o : Outputs) : (s.withOut o).queue = s.queue := rfl
@[simp] theorem State.withOut_wakePending (o : Outputs) : (s.withOut o).wakePending = s.wakePending := rfl
@[simp] theorem State.withOut_stop (o : Outputs) : (s.withOut o).stop = s.stop := rfl
@[simp] theorem State.withOut_cstate (o : Outputs) : (s.withOut o).cstate = s.cstate := rfl
@[simp] theorem State.withOut_busy (o : Outputs) : (s.withOut o).busy = s.busy := rfl
@[simp] theorem State.withOut_pstate (o : Outputs) : (s.withOut o).pstate = s.pstate := rfl
@[simp] theorem State.withOut_hstate (o : Outputs) : (s.withOut o).hstate = s.hstate := rfl
@[simp] theorem State.withOut_regs (o : Outputs) : (s.withOut o).regs = s.regs := rfl
@[simp] theorem State.withOut_ex (o : Outputs) : (s.withOut o).ex = s.ex := rfl
@[simp] theorem State.withOut_pipe (o : Outputs) : (s.withOut o).pipe = s.pipe := rfl
@[simp] theorem State.withOut_fb (o : Outputs) : (s.withOut o).fb = s.fb := rfl
@[simp] theorem State.withOut_dirty (o : Outputs) : (s.withOut o).dirty = s.dirty := rfl
@[simp] theorem State.withOut_out (o : Outputs) : (s.withOut o).out = o := rfl
@[simp] theorem State.withOut_inputs (o : Outputs) : (s.withOut o).inputs = s.inputs := rfl
@[simp] theorem State.withOut_freeCtr (o : Outputs) : (s.withOut o).freeCtr = s.freeCtr := rfl

/-! ## withInputs -/

@[simp] theorem State.withInputs_params (i : List Input) : (s.withInputs i).params = s.params := rfl
@[simp] theorem State.withInputs_queue (i : List Input) : (s.withInputs i).queue = s.queue := rfl
@[simp] theorem State.withInputs_wakePending (i : List Input) : (s.withInputs i).wakePending = s.wakePending := rfl
@[simp] theorem State.withInputs_stop (i : List Input) : (s.withInputs i).stop = s.stop := rfl
@[simp] theorem State.withInputs_cstate (i : List Input) : (s.withInputs i).cstate = s.cstate := rfl
@[simp] theorem State.withInputs_busy (i : List Input) : (s.withInputs i).busy = s.busy := rfl
@[simp] theorem State.withInputs_pstate (i : List Input) : (s.withInputs i).pstate = s.pstate := rfl
@[simp] theorem State.withInputs_hstate (i : List Input) : (s.withInputs i).hstate = s.hstate := rfl
@[simp] theorem State.withInputs_regs (i : List Input) : (s.withInputs i).regs = s.regs := rfl
@[simp] theorem State.withInputs_ex (i : List Input) : (s.withInputs i).ex = s.ex := rfl
@[simp] theorem State.withInputs_pipe (i : List Input) : (s.withInputs i).pipe = s.pipe := rfl
@[simp] theorem State.withInputs_fb (i : List Input) : (s.withInputs i).fb = s.fb := rfl
@[simp] theorem State.withInputs_dirty (i : List Input) : (s.withInputs i).dirty = s.dirty := rfl
@[simp] theorem State.withInputs_out (i : List Input) : (s.withInputs i).out = s.out := rfl
@[simp] theorem State.withInputs_inputs (i : List Input) : (s.withInputs i).inputs = i := rfl
@[simp] theorem State.withInputs_freeCtr (i : List Input) : (s.withInputs i).freeCtr = s.freeCtr := rfl

/-! ## withFreeCtr -/

@[simp] theorem State.withFreeCtr_params (n : Nat) : (s.withFreeCtr n).params = s.params := rfl
@[simp] theorem State.withFreeCtr_queue (n : Nat) : (s.withFreeCtr n).queue = s.queue := rfl
@[simp] theorem State.withFreeCtr_wakePending (n : Nat) : (s.withFreeCtr n).wakePending = s.wakePending := rfl
@[simp] theorem State.withFreeCtr_stop (n : Nat) : (s.withFreeCtr n).stop = s.stop := rfl
@[simp] theorem State.withFreeCtr_cstate (n : Nat) : (s.withFreeCtr n).cstate = s.cstate := rfl
@[simp] theorem State.withFreeCtr_busy (n : Nat) : (s.withFreeCtr n).busy = s.busy := rfl
@[simp] theorem State.withFreeCtr_pstate (n : Nat) : (s.withFreeCtr n).pstate = s.pstate := rfl
@[simp] theorem State.withFreeCtr_hstate (n : Nat) : (s.withFreeCtr n).hstate = s.hstate := rfl
@[simp] theorem State.withFreeCtr_regs (n : Nat) : (s.withFreeCtr n).regs = s.regs := rfl
@[simp] theorem State.withFreeCtr_ex (n : Nat) : (s.withFreeCtr n).ex = s.ex := rfl
@[simp] theorem State.withFreeCtr_pipe (n : Nat) : (s.withFreeCtr n).pipe = s.pipe := rfl
@[simp] theorem State.withFreeCtr_fb (n : Nat) : (s.withFreeCtr n).fb = s.fb := rfl
@[simp] theorem State.withFreeCtr_dirty (n : Nat) : (s.withFreeCtr n).dirty = s.dirty := rfl
@[simp] theorem State.withFreeCtr_out (n : Nat) : (s.withFreeCtr n).out = s.out := rfl
@[simp] theorem State.withFreeCtr_inputs (n : Nat) : (s.withFreeCtr n).inputs = s.inputs := rfl
@[simp] theorem State.withFreeCtr_freeCtr (n : Nat) : (s.withFreeCtr n).freeCtr = n := rfl

end Sys2Proof.Machine
end

