-- ==== Sys2Proof/Laws/Agents.lean ====
section
/-! SUPPORT. When the agents' steps are enabled, and what they answer: one lemma per step. -/

namespace Sys2Proof.Machine

open Sys2Proof

variable (s : State)

theorem State.dequeueEnabled_iff : s.dequeueEnabled = true ↔ s.cstate = .draining ∧ s.queue.wr ≠ s.queue.rd := by
  simp [State.dequeueEnabled]

theorem State.emptyEnabled_iff : s.emptyEnabled = true ↔ s.cstate = .draining ∧ s.queue.wr = s.queue.rd := by
  simp [State.emptyEnabled]

theorem State.wakeEnabled_iff :
    s.wakeEnabled = true ↔ s.cstate = .idle ∧ s.wakePending = true ∧ s.stop = false := by
  simp [State.wakeEnabled, and_assoc]

theorem State.stopEnabled_iff :
    s.stopEnabled = true ↔ s.cstate = .idle ∧ s.wakePending = true ∧ s.stop = true := by
  simp [State.stopEnabled, and_assoc]

theorem State.full_iff : s.full = true ↔ s.queue.wr - s.queue.rd = s.params.qcap := by
  simp [State.full, State.occupancy]

theorem State.drained_iff : s.drained = true ↔ s.occupancy = 0 ∨ s.stop = true := by
  simp [State.drained]

theorem State.idleForHost_iff :
    s.idleForHost = true ↔ (s.occupancy = 0 ∧ s.cstate ≠ .draining) ∨ s.cstate = .stopped ∨ s.stop = true := by
  simp [State.idleForHost, or_assoc]

/-- Calling close as one update. -/
theorem State.callClose_eq (before waiting : HState) :
    s.callClose before waiting = { s with
      stop := true, wakePending := true, hstate := if s.cstate = .stopped then before else waiting } := rfl

/-- The Consumer's enabled step, if any. -/
theorem State.consumerStep_cases :
    (s.consumerStep = some .dequeueExecute ∧ s.cstate = .draining ∧ s.queue.wr ≠ s.queue.rd) ∨
    (s.consumerStep = some .empty ∧ s.cstate = .draining ∧ s.queue.wr = s.queue.rd) ∨
    (s.consumerStep = some .wake ∧ s.cstate = .idle ∧ s.wakePending = true ∧ s.stop = false) ∨
    (s.consumerStep = some .stop ∧ s.cstate = .idle ∧ s.wakePending = true ∧ s.stop = true) ∨
    (s.consumerStep = none ∧ s.cstate ≠ .draining) := by
  unfold State.consumerStep
  split
  · exact .inl ⟨rfl, s.dequeueEnabled_iff.1 (by assumption)⟩
  · rename_i h1
    split
    · exact .inr (.inl ⟨rfl, s.emptyEnabled_iff.1 (by assumption)⟩)
    · rename_i h2
      split
      · exact .inr (.inr (.inl ⟨rfl, s.wakeEnabled_iff.1 (by assumption)⟩))
      · split
        · exact .inr (.inr (.inr (.inl ⟨rfl, s.stopEnabled_iff.1 (by assumption)⟩)))
        · refine .inr (.inr (.inr (.inr ⟨rfl, fun hc => ?_⟩)))
          rw [State.dequeueEnabled_iff] at h1
          rw [State.emptyEnabled_iff] at h2
          tauto

/-- WAKE: what it answers. -/
theorem execWake_next {s t : State} (h : execWake s = .next t) :
    t = s ∨ (s.cstate = .idle ∧ s.wakePending = true ∧ s.stop = false ∧
      t = { s with wakePending := false, cstate := .draining, busy := true }) := by
  unfold execWake at h
  split at h
  · obtain ⟨h1, h2, h3⟩ := s.wakeEnabled_iff.1 (by assumption)
    exact .inr ⟨h1, h2, h3, by injection h with h; exact h.symm⟩
  · exact .inl (by injection h with h; exact h.symm)

/-- STOP: what it answers. -/
theorem execStop_next {s t : State} (h : execStop s = .next t) :
    t = s ∨ (s.cstate = .idle ∧ s.wakePending = true ∧ s.stop = true ∧
      t = { s with wakePending := false, cstate := .stopped }) := by
  unfold execStop at h
  split at h
  · obtain ⟨h1, h2, h3⟩ := s.stopEnabled_iff.1 (by assumption)
    exact .inr ⟨h1, h2, h3, by injection h with h; exact h.symm⟩
  · exact .inl (by injection h with h; exact h.symm)

/-- EMPTY: what it answers. -/
theorem execEmpty_next {s t : State} (h : execEmpty s = .next t) :
    t = s ∨ (s.cstate = .draining ∧ s.queue.wr = s.queue.rd ∧
      t = { s with cstate := .idle, busy := false }) := by
  unfold execEmpty at h
  split at h
  · obtain ⟨h1, h2⟩ := s.emptyEnabled_iff.1 (by assumption)
    exact .inr ⟨h1, h2, by injection h with h; exact h.symm⟩
  · exact .inl (by injection h with h; exact h.symm)

/-- DEQUEUE-EXECUTE: what it answers. -/
theorem execDequeueExecute_cases :
    (execDequeueExecute s = .next s ∧ ¬ (s.cstate = .draining ∧ s.queue.wr ≠ s.queue.rd)) ∨
    (s.cstate = .draining ∧ s.queue.wr ≠ s.queue.rd ∧
      ((execDequeueExecute s = .fault (.queueInvariant s.queue.rd s.queue.wr) ∧
          (s.queue.wr < s.queue.rd + 1 ∨ s.params.qcap < s.queue.wr - (s.queue.rd + 1))) ∨
        (execDequeueExecute s = .next (s.executeWord s.headEntry).popEntry ∧
          s.queue.rd < s.queue.wr ∧ s.queue.wr - (s.queue.rd + 1) ≤ s.params.qcap))) := by
  unfold execDequeueExecute
  split
  · obtain ⟨h1, h2⟩ := s.dequeueEnabled_iff.1 (by assumption)
    refine .inr ⟨h1, h2, ?_⟩
    split
    · rename_i hb
      exact .inl ⟨rfl, by simpa [cursorsBad] using hb⟩
    · rename_i hb
      refine .inr ⟨rfl, ?_⟩
      have : ¬ (s.queue.wr < s.queue.rd + 1 ∨ s.params.qcap < s.queue.wr - (s.queue.rd + 1)) := by
        simpa [cursorsBad] using hb
      omega
  · rename_i hn
    exact .inl ⟨rfl, fun h => hn (s.dequeueEnabled_iff.2 h)⟩

/-- The queue and the wake bit after one entry is enqueued (40 R151). -/
def State.enqueued (s : State) (e : EntryWord) (p : PState) : State :=
  { s with
    queue := { s.queue with slots := s.queue.slots.set (s.queue.wr % s.params.qcap) e, wr := s.queue.wr + 1 }
    wakePending := s.wakePending ||
      decide (s.queue.wr + 1 - s.queue.rd > s.params.qcap - s.params.qcap / 8 ∨ s.queue.wr + 1 - s.queue.rd < 8)
    pstate := p }

/-- The first ENQUEUE of an access: what it answers (40 R151, R152). -/
theorem State.enqueueFirst_cases (pending : List EntryWord) :
    (pending = [] ∧ s.enqueueFirst pending = .next (s.withPState .ready)) ∨
    ∃ e rest, pending = e :: rest ∧
      ((s.queue.wr - s.queue.rd = s.params.qcap ∧
          s.enqueueFirst pending = .next { s with wakePending := true, pstate := .waitRoom true pending }) ∨
        (s.queue.wr - s.queue.rd ≠ s.params.qcap ∧
          (s.queue.wr + 1 < s.queue.rd ∨ s.params.qcap < s.queue.wr + 1 - s.queue.rd) ∧
          s.enqueueFirst pending = .fault (.queueInvariant s.queue.rd s.queue.wr)) ∨
        (s.queue.wr - s.queue.rd ≠ s.params.qcap ∧ s.queue.rd ≤ s.queue.wr + 1 ∧
          s.queue.wr + 1 - s.queue.rd ≤ s.params.qcap ∧
          s.enqueueFirst pending =
            .next (s.enqueued e (if rest = [] then .ready else .waitRoom false rest)))) := by
  cases pending with
  | nil => exact .inl ⟨rfl, rfl⟩
  | cons e rest =>
    refine .inr ⟨e, rest, rfl, ?_⟩
    unfold State.enqueueFirst
    dsimp only
    by_cases hf : s.full = true
    · exact .inl ⟨s.full_iff.1 hf, by rw [if_pos hf]; rfl⟩
    · have hn : s.queue.wr - s.queue.rd ≠ s.params.qcap := fun h => hf (s.full_iff.2 h)
      rw [if_neg hf]
      by_cases hb : cursorsBad s.params s.queue.rd (s.queue.wr + 1) = true
      · exact .inr (.inl ⟨hn, by simpa [cursorsBad] using hb, by rw [if_pos hb]⟩)
      · have hb' : ¬ (s.queue.wr + 1 < s.queue.rd ∨ s.params.qcap < s.queue.wr + 1 - s.queue.rd) := by
          simpa [cursorsBad] using hb
        refine .inr (.inr ⟨hn, by omega, by omega, ?_⟩)
        rw [if_neg hb]
        have hw : ((s.pushEntry e).wakePending || wakesAt (s.pushEntry e).params (s.pushEntry e).occupancy) =
            (s.wakePending || decide (s.queue.wr + 1 - s.queue.rd > s.params.qcap - s.params.qcap / 8 ∨
              s.queue.wr + 1 - s.queue.rd < 8)) := by
          simp [State.pushEntry, wakesAt, hwm, State.occupancy, Config.lwm]
          rfl
        have hp : afterEntries rest = if rest = [] then .ready else .waitRoom false rest := by
          cases rest <;> rfl
        simp only [hp]
        refine congrArg Host.Outcome.next ?_
        exact congrArg (fun b => ((s.pushEntry e).withWake b).withPState _) hw

end Sys2Proof.Machine
end

