-- ==== Sys2Proof/Laws/Queue.lean ====
section
/-! SUPPORT. The ring of slots: what one ENQUEUE and one DEQUEUE do to the queued entries and to the queue
invariant (10 R32, 40 R151, R153). -/

namespace Sys2Proof.Machine

open Sys2Proof

/-- Slots within one turn of the ring are different. -/
theorem ring_injective {n a i j : Nat} (hi : i < n) (hj : j < n) (h : (a + i) % n = (a + j) % n) : i = j := by
  have h1 := Nat.div_add_mod (a + i) n
  have h2 := Nat.div_add_mod (a + j) n
  have hq : (a + i) / n = (a + j) / n ∨ (a + i) / n + 1 = (a + j) / n ∨ (a + i) / n = (a + j) / n + 1 := by
    rcases Nat.lt_trichotomy ((a + i) / n) ((a + j) / n) with hl | hl | hl
    · rcases Nat.lt_or_ge ((a + i) / n + 1) ((a + j) / n) with hc | hc
      · have := Nat.mul_le_mul_left n (Nat.succ_le_of_lt hc)
        rw [Nat.mul_succ, Nat.mul_add, Nat.mul_one] at this
        omega
      · omega
    · omega
    · rcases Nat.lt_or_ge ((a + j) / n + 1) ((a + i) / n) with hc | hc
      · have := Nat.mul_le_mul_left n (Nat.succ_le_of_lt hc)
        rw [Nat.mul_succ, Nat.mul_add, Nat.mul_one] at this
        omega
      · omega
  rcases hq with hq | hq | hq
  · rw [hq] at h1; omega
  · rw [← hq, Nat.mul_add, Nat.mul_one] at h2; omega
  · rw [hq, Nat.mul_add, Nat.mul_one] at h1; omega

theorem getD_set_self (l : List EntryWord) (k : Nat) (e : EntryWord) (h : k < l.length) :
    (l.set k e).getD k 0#64 = e := by
  simp [List.getD, h]

theorem getD_set_other (l : List EntryWord) (k j : Nat) (e : EntryWord) (h : k ≠ j) :
    (l.set k e).getD j 0#64 = l.getD j 0#64 := by
  simp [List.getD, List.getElem?_set, h]

/-- A state whose queue is that of `s` with one more entry. -/
def pushed (s t : State) (e : EntryWord) : Prop :=
  t.params.qcap = s.params.qcap ∧
    t.queue = { s.queue with slots := s.queue.slots.set (s.queue.wr % s.params.qcap) e, wr := s.queue.wr + 1 }

/-- A state whose queue is that of `s` without its oldest entry. -/
def popped (s t : State) : Prop :=
  t.params.qcap = s.params.qcap ∧
    t.queue = { s.queue with slots := s.queue.slots.set (s.queue.rd % s.params.qcap) 0#64, rd := s.queue.rd + 1 }

variable {s t : State} {e : EntryWord}

theorem pushed.slot (h : pushed s t e) (hl : s.queue.slots.length = s.params.qcap) (hq : 0 < s.params.qcap)
    (k : Nat) : t.slot k = if k = s.queue.wr % s.params.qcap then e else s.slot k := by
  unfold State.slot
  rw [h.2]
  split
  · rename_i hk; rw [hk]
    exact getD_set_self _ _ _ (by rw [hl]; exact Nat.mod_lt _ hq)
  · rename_i hk
    exact getD_set_other _ _ _ _ (fun hh => hk hh.symm)

theorem popped.slot (h : popped s t) (hl : s.queue.slots.length = s.params.qcap) (hq : 0 < s.params.qcap)
    (k : Nat) : t.slot k = if k = s.queue.rd % s.params.qcap then 0#64 else s.slot k := by
  unfold State.slot
  rw [h.2]
  split
  · rename_i hk; rw [hk]
    exact getD_set_self _ _ _ (by rw [hl]; exact Nat.mod_lt _ hq)
  · rename_i hk
    exact getD_set_other _ _ _ _ (fun hh => hk hh.symm)

theorem contents_congr (hq : t.queue = s.queue) (hp : t.params.qcap = s.params.qcap) : t.contents = s.contents := by
  unfold State.contents State.slot State.occupancy slotIndex
  rw [hq, hp]

/-- ENQUEUE adds its entry at the end. -/
theorem pushed.contents (h : pushed s t e) (hl : s.queue.slots.length = s.params.qcap)
    (hle : s.queue.rd ≤ s.queue.wr) (hn : s.queue.wr - s.queue.rd < s.params.qcap) :
    t.contents = s.contents ++ [e] := by
  have hq : 0 < s.params.qcap := by omega
  have ho : t.occupancy = s.occupancy + 1 := by
    unfold State.occupancy; rw [h.2]; show s.queue.wr + 1 - s.queue.rd = _; omega
  unfold State.contents
  rw [ho, List.range_succ, List.map_append]
  have hrd : t.queue.rd = s.queue.rd := by rw [h.2]
  congr 1
  · refine List.map_congr_left (fun i hi => ?_)
    have hi : i < s.queue.wr - s.queue.rd := List.mem_range.1 hi
    unfold slotIndex
    rw [hrd, h.1, h.slot hl hq, if_neg]
    intro hc
    have : s.queue.wr = s.queue.rd + (s.queue.wr - s.queue.rd) := by omega
    rw [this] at hc
    have := ring_injective (n := s.params.qcap) (by omega) hn hc
    omega
  · show [t.slot _] = [e]
    unfold slotIndex State.occupancy
    rw [hrd, h.1, show s.queue.rd + (s.queue.wr - s.queue.rd) = s.queue.wr by omega, h.slot hl hq, if_pos rfl]

/-- DEQUEUE takes the oldest entry away. -/
theorem popped.contents (h : popped s t) (hl : s.queue.slots.length = s.params.qcap)
    (hlt : s.queue.rd < s.queue.wr) (hn : s.queue.wr - s.queue.rd ≤ s.params.qcap) :
    s.contents = s.slot (s.queue.rd % s.params.qcap) :: t.contents := by
  have hq : 0 < s.params.qcap := by omega
  have ho : s.occupancy = t.occupancy + 1 := by
    unfold State.occupancy; rw [h.2]; show s.queue.wr - s.queue.rd = s.queue.wr - (s.queue.rd + 1) + 1; omega
  have ht : t.occupancy = s.queue.wr - s.queue.rd - 1 := by unfold State.occupancy at *; omega
  unfold State.contents
  rw [ho, List.range_succ_eq_map, List.map_cons, List.map_map]
  congr 1
  refine List.map_congr_left (fun i hi => ?_)
  have hi := List.mem_range.1 hi
  rw [ht] at hi
  have hrd : t.queue.rd = s.queue.rd + 1 := by rw [h.2]
  show s.slot _ = t.slot _
  unfold slotIndex
  rw [hrd, h.1, h.slot hl hq, if_neg, show s.queue.rd + (i + 1) = s.queue.rd + 1 + i by omega]
  intro hc
  have hc' : (s.queue.rd + (i + 1)) % s.params.qcap = (s.queue.rd + 0) % s.params.qcap := by
    rw [show s.queue.rd + (i + 1) = s.queue.rd + 1 + i by omega]; exact hc
  have := ring_injective (n := s.params.qcap) (by omega) hq hc'
  omega

theorem occupied_congr (hq : t.queue = s.queue) (hp : t.params.qcap = s.params.qcap) (k : Nat) :
    t.occupied k ↔ s.occupied k := by
  unfold State.occupied State.occupancy slotIndex
  rw [hq, hp]

theorem queueOk_congr (hq : t.queue = s.queue) (hp : t.params.qcap = s.params.qcap) : queueOk t ↔ queueOk s := by
  unfold queueOk State.slot
  simp only [occupied_congr hq hp, hq, hp]

/-- ENQUEUE of an entry the Producer may make keeps the queue invariant. -/
theorem pushed.queueOk (h : pushed s t e) (hs : queueOk s) (he : entryOk e)
    (hn : s.queue.wr - s.queue.rd < s.params.qcap) : queueOk t := by
  obtain ⟨hl, hle, -, hk⟩ := hs
  have hq : 0 < s.params.qcap := by omega
  have hrd : t.queue.rd = s.queue.rd := by rw [h.2]
  have hwr : t.queue.wr = s.queue.wr + 1 := by rw [h.2]
  have hw : (s.queue.wr - s.queue.rd) + s.queue.rd = s.queue.wr := by omega
  refine ⟨?_, by rw [hrd, hwr]; omega, by rw [hrd, hwr, h.1]; omega, fun k hkq => ?_⟩
  · rw [h.2, h.1]; simp [hl]
  · rw [h.1] at hkq
    have hocc : t.occupied k ↔ s.occupied k ∨ k = s.queue.wr % s.params.qcap := by
      unfold State.occupied State.occupancy slotIndex
      rw [hrd, hwr, h.1]
      constructor
      · rintro ⟨i, hi, rfl⟩
        rcases Nat.lt_or_ge i (s.queue.wr - s.queue.rd) with hlt | hge
        · exact .inl ⟨i, hlt, rfl⟩
        · exact .inr (by congr 1; omega)
      · rintro (⟨i, hi, rfl⟩ | rfl)
        · exact ⟨i, by omega, rfl⟩
        · exact ⟨s.queue.wr - s.queue.rd, by omega, by congr 1; omega⟩
    rw [hocc, h.slot hl hq]
    by_cases hc : k = s.queue.wr % s.params.qcap
    · rw [if_pos hc]; exact ⟨fun _ => he, fun hh => absurd (.inr hc) hh⟩
    · rw [if_neg hc]
      exact ⟨fun hh => (hk k hkq).1 (hh.resolve_right hc), fun hh => (hk k hkq).2 (fun ho => hh (.inl ho))⟩

/-- DEQUEUE keeps the queue invariant. -/
theorem popped.queueOk (h : popped s t) (hs : queueOk s) (hlt : s.queue.rd < s.queue.wr) : queueOk t := by
  obtain ⟨hl, hle, hn, hk⟩ := hs
  have hq : 0 < s.params.qcap := by omega
  have hrd : t.queue.rd = s.queue.rd + 1 := by rw [h.2]
  have hwr : t.queue.wr = s.queue.wr := by rw [h.2]
  refine ⟨?_, by rw [hrd, hwr]; omega, by rw [hrd, hwr, h.1]; omega, fun k hkq => ?_⟩
  · rw [h.2, h.1]; simp [hl]
  · rw [h.1] at hkq
    have hocc : t.occupied k ↔ s.occupied k ∧ k ≠ s.queue.rd % s.params.qcap := by
      unfold State.occupied State.occupancy slotIndex
      rw [hrd, hwr, h.1]
      constructor
      · rintro ⟨i, hi, rfl⟩
        refine ⟨⟨i + 1, by omega, by congr 1; omega⟩, fun hc => ?_⟩
        rw [show s.queue.rd + 1 + i = s.queue.rd + (i + 1) by omega] at hc
        have := ring_injective (n := s.params.qcap) (by omega) hq (hc.trans (by rw [Nat.add_zero]) :
          (s.queue.rd + (i + 1)) % s.params.qcap = (s.queue.rd + 0) % s.params.qcap)
        omega
      · rintro ⟨⟨i, hi, rfl⟩, hne⟩
        rcases Nat.eq_zero_or_pos i with hz | hz
        · subst hz; exact absurd rfl hne
        · exact ⟨i - 1, by omega, by congr 1; omega⟩
    rw [hocc, h.slot hl hq]
    by_cases hc : k = s.queue.rd % s.params.qcap
    · rw [if_pos hc]; exact ⟨fun hh => absurd hc hh.2, fun _ => rfl⟩
    · rw [if_neg hc]
      exact ⟨fun hh => (hk k hkq).1 hh.1, fun hh => (hk k hkq).2 (fun ho => hh ⟨ho, hc⟩)⟩

theorem enqueued_pushed (s : State) (e : EntryWord) (p : PState) : pushed s (s.enqueued e p) e := ⟨rfl, rfl⟩

end Sys2Proof.Machine
end

