-- ==== Sys2Proof/Laws/Memory.lean ====
section
/-! SUPPORT. The framebuffer's laws: every operation keeps the canonical form, a read after a write
gives the value written, and a write leaves every other byte alone; the same for the dirty bitmap. -/

namespace Sys2Proof.Machine

/-! ## The canonical form -/

theorem Memory.wf_cons {c : Host.Cell} {m : Memory} :
    Memory.wf (c :: m) ↔ (∀ d ∈ m, c.1 < d.1) ∧ c.2 ≠ Memory.unlisted ∧ Memory.wf m := by
  simp only [Memory.wf, List.pairwise_cons, List.mem_cons, forall_eq_or_imp]
  tauto

theorem Memory.wf_nil : Memory.wf [] := by simp [Memory.wf]

theorem Memory.mem_cell {x : Nat} {v : Byte} {c : Host.Cell} (h : c ∈ Memory.cell x v) :
    c = (x, v) ∧ v ≠ Memory.unlisted := by
  unfold Memory.cell at h
  split at h
  · cases h
  · exact ⟨List.mem_singleton.1 h, by assumption⟩

/-- An entry of the memory after a write is the written one or was there before. -/
theorem Memory.mem_write {m : Memory} {x : Nat} {v : Byte} {c : Host.Cell} (h : c ∈ Memory.write m x v) :
    c = (x, v) ∨ c ∈ m := by
  induction m with
  | nil => exact .inl (Memory.mem_cell h).1
  | cons d m ih =>
    unfold Memory.write at h
    split at h
    · rcases List.mem_append.1 h with h | h
      · exact .inl (Memory.mem_cell h).1
      · exact .inr h
    · split at h
      · rcases List.mem_append.1 h with h | h
        · exact .inl (Memory.mem_cell h).1
        · exact .inr (List.mem_cons_of_mem _ h)
      · rcases List.mem_cons.1 h with h | h
        · exact .inr (h ▸ List.mem_cons_self)
        · rcases ih h with h | h
          · exact .inl h
          · exact .inr (List.mem_cons_of_mem _ h)

theorem Memory.wf_cell_append {x : Nat} {v : Byte} {m : Memory} (hm : Memory.wf m) (hx : ∀ d ∈ m, x < d.1) :
    Memory.wf (Memory.cell x v ++ m) := by
  unfold Memory.cell
  split
  · exact hm
  · exact Memory.wf_cons.2 ⟨hx, by assumption, hm⟩

/-- A write keeps the canonical form. -/
theorem Memory.wf_write {m : Memory} (x : Nat) (v : Byte) (h : Memory.wf m) : Memory.wf (Memory.write m x v) := by
  induction m with
  | nil =>
    have := Memory.wf_cell_append (x := x) (v := v) Memory.wf_nil (by simp)
    simpa [Memory.write] using this
  | cons c m ih =>
    obtain ⟨h1, h2, h3⟩ := Memory.wf_cons.1 h
    unfold Memory.write
    split
    · refine Memory.wf_cell_append h ?_
      intro d hd
      rcases List.mem_cons.1 hd with hd | hd
      · subst hd; assumption
      · exact Nat.lt_trans (by assumption) (h1 d hd)
    · split
      · refine Memory.wf_cell_append h3 ?_
        rename_i hx
        rw [hx]; exact h1
      · refine Memory.wf_cons.2 ⟨?_, h2, ih h3⟩
        intro d hd
        rcases Memory.mem_write hd with hd | hd
        · subst hd; show c.1 < x; omega
        · exact h1 d hd

/-! ## Reads -/

theorem Memory.read_of_lt {m : Memory} {x : Nat} (h : ∀ d ∈ m, x < d.1) : Memory.read m x = Memory.unlisted := by
  induction m with
  | nil => rfl
  | cons c m ih =>
    unfold Memory.read
    have := h c List.mem_cons_self
    rw [if_neg (by omega), ih fun d hd => h d (List.mem_cons_of_mem _ hd)]

theorem Memory.read_cell_append {x : Nat} {v : Byte} {m : Memory} (y : Nat) (hx : ∀ d ∈ m, x < d.1) :
    Memory.read (Memory.cell x v ++ m) y = if y = x then v else Memory.read m y := by
  unfold Memory.cell
  split
  · subst v
    simp only [List.nil_append]
    split
    · subst y; exact Memory.read_of_lt hx
    · rfl
  · simp only [List.singleton_append, Memory.read, eq_comm]

/-- Reading after a write: the value written there, every other byte as before. -/
theorem Memory.read_write {m : Memory} (h : Memory.wf m) (x : Nat) (v : Byte) (y : Nat) :
    Memory.read (Memory.write m x v) y = if y = x then v else Memory.read m y := by
  induction m with
  | nil =>
    have := Memory.read_cell_append (x := x) (v := v) (m := []) y (by simp)
    simpa [Memory.write] using this
  | cons c m ih =>
    obtain ⟨h1, -, h3⟩ := Memory.wf_cons.1 h
    unfold Memory.write
    split
    · refine Memory.read_cell_append y ?_
      intro d hd
      rcases List.mem_cons.1 hd with hd | hd
      · subst hd; assumption
      · exact Nat.lt_trans (by assumption) (h1 d hd)
    · split
      · rename_i hx
        subst hx
        rw [Memory.read_cell_append y h1]
        by_cases hy : y = c.1
        · simp [hy]
        · simp [hy, Memory.read, Ne.symm hy]
      · unfold Memory.read
        by_cases hy : c.1 = y
        · rw [if_pos hy, if_pos hy, if_neg (by omega)]
        · rw [if_neg hy, if_neg hy, ih h3]

/-- Writing back the byte that is there changes nothing. -/
theorem Memory.write_read {m : Memory} (h : Memory.wf m) (x : Nat) : Memory.write m x (Memory.read m x) = m := by
  induction m with
  | nil => simp [Memory.write, Memory.read, Memory.cell]
  | cons c m ih =>
    obtain ⟨h1, h2, h3⟩ := Memory.wf_cons.1 h
    by_cases hc : c.1 = x
    · subst hc
      simp [Memory.write, Memory.read, Memory.cell, h2]
    · have hr : Memory.read (c :: m) x = Memory.read m x := by simp [Memory.read, hc]
      rw [hr]
      unfold Memory.write
      split
      · have : Memory.read m x = Memory.unlisted :=
          Memory.read_of_lt fun d hd => Nat.lt_trans (by assumption) (h1 d hd)
        simp [Memory.cell, this]
      · rw [if_neg (by omega), ih h3]

/-! ## Writes of several bytes -/

theorem scatterLE_wf {size a : Nat} {v : Word} {m : Memory} (h : Memory.wf m) (n : Nat) :
    Memory.wf (scatterLE size a v m n) := by
  induction n with
  | zero => exact h
  | succ n ih => exact Memory.wf_write _ _ ih

theorem scatterLE_lt {size a : Nat} {v : Word} {m : Memory} (hs : 0 < size) (h : ∀ c ∈ m, c.1 < size) (n : Nat) :
    ∀ c ∈ scatterLE size a v m n, c.1 < size := by
  induction n with
  | zero => exact h
  | succ n ih =>
    intro c hc
    rcases Memory.mem_write hc with hc | hc
    · subst hc; exact Nat.mod_lt _ hs
    · exact ih c hc

/-- A byte outside the written ones is as before. -/
theorem read_scatterLE_other {size a : Nat} {v : Word} {m : Memory} (h : Memory.wf m) (n y : Nat)
    (hy : ∀ i < n, y ≠ (a + i) % size) : Memory.read (scatterLE size a v m n) y = Memory.read m y := by
  induction n with
  | zero => rfl
  | succ n ih =>
    unfold scatterLE
    rw [Memory.read_write (scatterLE_wf h n), if_neg (hy n (by omega)), ih fun i hi => hy i (by omega)]

/-- A written byte holds its byte of the value, where the written addresses are distinct. -/
theorem read_scatterLE_same {size a : Nat} {v : Word} {m : Memory} (h : Memory.wf m) (n i : Nat) (hi : i < n)
    (hd : ∀ j < n, (a + j) % size = (a + i) % size → j = i) :
    Memory.read (scatterLE size a v m n) ((a + i) % size) = byteOf v i := by
  induction n with
  | zero => omega
  | succ n ih =>
    unfold scatterLE
    rw [Memory.read_write (scatterLE_wf h n)]
    by_cases hin : i = n
    · subst hin; simp
    · rw [if_neg (fun he => hin (hd n (by omega) he.symm).symm)]
      exact ih (by omega) fun j hj => hd j (by omega)

/-! ## Values of several bytes -/

/-- Bit `k` of a value gathered from bytes. -/
theorem gatherLE_bit (f : Nat → Byte) (n : Nat) {k : Nat} (hk : k < 32) :
    (gatherLE f n).getLsbD k = (decide (k < 8 * n) && (f (k / 8)).getLsbD (k % 8)) := by
  induction n with
  | zero => simp [gatherLE]
  | succ n ih =>
    unfold gatherLE
    rw [BitVec.getLsbD_or, ih, BitVec.getLsbD_shiftLeft, BitVec.getLsbD_setWidth]
    by_cases h1 : k < 8 * n
    · simp [h1, show k < 8 * (n + 1) by omega]
    · by_cases h2 : k < 8 * (n + 1)
      · have h3 : k / 8 = n := by omega
        have h4 : k - 8 * n = k % 8 := by omega
        simp [h1, h2, h3, h4, hk, show k % 8 < 32 by omega]
      · have h5 : 8 ≤ k - 8 * n := by omega
        simp [h1, h2, hk, BitVec.getLsbD_of_ge _ _ h5]

/-- Byte `i` of a value gathered from bytes. -/
theorem byteOf_gatherLE (f : Nat → Byte) {n i : Nat} (hi : i < n) (hn : n ≤ 4) : byteOf (gatherLE f n) i = f i := by
  apply BitVec.eq_of_getLsbD_eq
  intro j hj
  unfold byteOf
  rw [BitVec.getLsbD_extractLsb', gatherLE_bit f n (by omega)]
  simp [hj, show 8 * i + j < 8 * n by omega, show (8 * i + j) / 8 = i by omega, show (8 * i + j) % 8 = j by omega]

/-- Bit `k` of a pixel mask. -/
theorem pixMask_bit_eq (pb k : Nat) (hk : k < 32) :
    (BitVec.ofNat 32 (2 ^ (8 * pb) - 1)).getLsbD k = decide (k < 8 * pb) := by
  rw [BitVec.getLsbD_ofNat, Nat.testBit_two_pow_sub_one]
  simp [hk]

/-! ## The dirty bitmap -/

theorem mem_insertPage {p q : Nat} {l : List Nat} : q ∈ insertPage p l ↔ q = p ∨ q ∈ l := by
  induction l with
  | nil => simp [insertPage]
  | cons x l ih =>
    unfold insertPage
    split
    · simp
    · split
      · subst p; simp
      · simp only [List.mem_cons, ih]; tauto

theorem insertPage_rising {p : Nat} {l : List Nat} (h : l.Pairwise (· < ·)) : (insertPage p l).Pairwise (· < ·) := by
  induction l with
  | nil => simp [insertPage]
  | cons x l ih =>
    obtain ⟨h1, h2⟩ := List.pairwise_cons.1 h
    unfold insertPage
    split
    · refine List.pairwise_cons.2 ⟨?_, h⟩
      intro y hy
      rcases List.mem_cons.1 hy with hy | hy
      · subst hy; assumption
      · exact Nat.lt_trans (by assumption) (h1 y hy)
    · split
      · exact h
      · refine List.pairwise_cons.2 ⟨?_, ih h2⟩
        intro y hy
        rcases mem_insertPage.1 hy with hy | hy
        · omega
        · exact h1 y hy

/-! ## Free contents -/

theorem pictureOf_wf (size : Nat) (l : List (Nat × Byte)) : Memory.wf (pictureOf size l) := by
  suffices h : ∀ m : Memory, Memory.wf m → Memory.wf (l.foldl (fun m c => Memory.write m (c.1 % size) c.2) m) from
    h [] Memory.wf_nil
  induction l with
  | nil => exact fun m h => h
  | cons c l ih => exact fun m h => ih _ (Memory.wf_write _ _ h)

theorem pictureOf_lt {size : Nat} (hs : 0 < size) (l : List (Nat × Byte)) : ∀ c ∈ pictureOf size l, c.1 < size := by
  suffices h : ∀ m : Memory, (∀ c ∈ m, c.1 < size) →
      ∀ c ∈ l.foldl (fun m c => Memory.write m (c.1 % size) c.2) m, c.1 < size from h [] (by simp)
  induction l with
  | nil => exact fun m h => h
  | cons d l ih =>
    refine fun m h => ih _ ?_
    intro c hc
    rcases Memory.mem_write hc with hc | hc
    · subst hc; exact Nat.mod_lt _ hs
    · exact h c hc

theorem dirtyOf_rising (pages : Nat) (l : List Nat) : (dirtyOf pages l).Pairwise (· < ·) := by
  suffices h : ∀ d : List Nat, d.Pairwise (· < ·) →
      (l.foldl (fun d p => insertPage (p % pages) d) d).Pairwise (· < ·) from h [] List.Pairwise.nil
  induction l with
  | nil => exact fun d h => h
  | cons p l ih => exact fun d h => ih _ (insertPage_rising h)

theorem dirtyOf_lt {pages : Nat} (hp : 0 < pages) (l : List Nat) : ∀ p ∈ dirtyOf pages l, p < pages := by
  suffices h : ∀ d : List Nat, (∀ p ∈ d, p < pages) →
      ∀ p ∈ l.foldl (fun d p => insertPage (p % pages) d) d, p < pages from h [] (by simp)
  induction l with
  | nil => exact fun d h => h
  | cons q l ih =>
    refine fun d h => ih _ ?_
    intro p hp'
    rcases mem_insertPage.1 hp' with hp' | hp'
    · subst hp'; exact Nat.mod_lt _ hp
    · exact h p hp'

/-- The reset memory has the canonical form. -/
theorem reset_fb_wf : Memory.wf State.reset.fb := Memory.wf_nil

end Sys2Proof.Machine
end

