-- ==== Sys2Proof/Laws/Engine.lean ====
section
/-! SUPPORT. What the primitive engine can do: one relation for its runs, a lemma that each operation is
such a run, and what every run keeps. -/

namespace Sys2Proof.Machine

open Sys2Proof

/-- Two register files that agree on every register a pixel reads (44 R297, the live values). -/
def sameLive (r r' : Regs) : Prop :=
  r' = { r with
    curY := r'.curY, curX := r'.curX, destyAxstp := r'.destyAxstp, destxDiastp := r'.destxDiastp,
    errTerm := r'.errTerm, cmd := r'.cmd, stage := r'.stage, stageCnt := r'.stageCnt }

theorem sameLive.refl (r : Regs) : sameLive r r := rfl

theorem sameLive_rest {y x dy dx e c : Half} {st : Vector Byte 4} {n : Nat} (r : Regs) :
    sameLive r { r with
      curY := y, curX := x, destyAxstp := dy, destxDiastp := dx, errTerm := e, cmd := c, stage := st,
      stageCnt := n } := rfl

theorem sameLive.trans {a b c : Regs} (h : sameLive a b) (h' : sameLive b c) : sameLive a c := by
  unfold sameLive at *
  rw [h'] ; rw [h]

/-- What a run of the engine is made of: pixels, moves of the execution state, and writes of the
registers that no pixel reads. -/
inductive EngineRun (s : State) : State → Prop
  | refl : EngineRun s s
  | pixel {t : State} (x y : Half) (item : Item) (src : Option Nat) :
      EngineRun s t → EngineRun s (t.pixel x y item src)
  | ex {t : State} (e : Ex) : EngineRun s t → EngineRun s (t.withEx e)
  | regs {t : State} (r : Regs) : sameLive t.regs r → EngineRun s t → EngineRun s (t.withRegs r)

theorem EngineRun.trans {s t u : State} (h : EngineRun s t) (h' : EngineRun t u) : EngineRun s u := by
  induction h' with
  | refl => exact h
  | pixel x y item src _ ih => exact .pixel x y item src ih
  | ex e _ ih => exact .ex e ih
  | regs r hr _ ih => exact .regs r hr ih

/-! ## Each operation is a run -/

theorem engineStep_run (item : Item) (s : State) : EngineRun s (engineStep item s).1 :=
  .ex _ (.pixel _ _ _ _ .refl)

theorem writebackRegs_live (e : Ex) (r : Regs) : sameLive r (writebackRegs e r) := by
  unfold writebackRegs
  cases e.cls <;> rfl

theorem writeback_run (s : State) : EngineRun s s.writeback := .regs _ (writebackRegs_live _ _) .refl

theorem finish_run (s : State) : EngineRun s s.finish := .ex _ (writeback_run s)

theorem runSteps_run (n : Nat) (s : State) : EngineRun s (runSteps n s) := by
  induction n generalizing s with
  | zero => exact .refl
  | succ n ih =>
    have h := engineStep_run .none s
    unfold runSteps
    split
    · rename_i heq; rw [heq] at h; exact h
    · rename_i heq; rw [heq] at h; exact h.trans (ih _)

theorem runPrimitive_run (n : Nat) (s : State) : EngineRun s (s.runPrimitive n) :=
  (runSteps_run n s).trans (finish_run _)

theorem feedItems_run (l : List Item) (s : State) : EngineRun s (feedItems l s) := by
  induction l generalizing s with
  | nil => exact writeback_run s
  | cons item l ih =>
    have h := engineStep_run item s
    unfold feedItems
    split
    · rename_i heq; rw [heq] at h; exact h.trans (finish_run _)
    · rename_i heq; rw [heq] at h; exact h.trans (writeback_run _)
    · rename_i heq; rw [heq] at h; exact h.trans (ih _)

theorem feedUnit_run (u : List Byte) (s : State) : EngineRun s (s.feedUnit u) := feedItems_run _ s

theorem abandon_run (s : State) : EngineRun s s.abandon := by
  unfold State.abandon
  exact .regs _ (sameLive_rest _) (.ex _ .refl)

theorem clearWaiting_run (s : State) : EngineRun s s.clearWaiting := by
  unfold State.clearWaiting
  dsimp only
  split
  · exact .regs _ (sameLive_rest _) (abandon_run s)
  · exact .regs _ (sameLive_rest _) .refl

theorem zeroExtentRegs_live (e : Ex) (r : Regs) : sameLive r (zeroExtentRegs e r) := by
  unfold zeroExtentRegs
  cases e.cls <;> rfl

theorem start_run (c : Half) (s : State) : EngineRun s (s.start c) := by
  unfold State.start
  dsimp only
  refine (clearWaiting_run s).trans ?_
  split
  · exact .refl
  · split
    · exact .regs _ (zeroExtentRegs_live _ _) (.ex _ .refl)
    · split
      · exact EngineRun.trans (.ex _ .refl) (runPrimitive_run _ _)
      · exact .ex _ (.ex _ .refl)

theorem commitCmd_run (c : Half) (s : State) : EngineRun s (s.commitCmd c) :=
  EngineRun.trans (.regs _ (sameLive_rest _) .refl) (start_run c _)

theorem writePixel_run (b : Byte) (s : State) : EngineRun s (s.writePixel b) := by
  unfold State.writePixel
  split
  · dsimp only
    split
    · exact EngineRun.trans (.regs _ (sameLive_rest _) .refl) (feedUnit_run _ _)
    · exact .regs _ (sameLive_rest _) .refl
  · exact .regs _ (sameLive_rest _) .refl

/-! ## What a pixel does -/

/-- PIXEL, once: the gates closed, or one masked write at the pixel's address. -/
theorem pixel_cases (s : State) (x y : Half) (item : Item) (src : Option Nat) :
    (∃ p, s.pixel x y item src = s.withPipe p ∧
      ¬ (s.regs.inClip x y = true ∧
        cmpPass s.regs.cmpMode s.params.pb s.regs.colorCmp (s.pipeFront item src).src = true)) ∨
    (∃ p, s.pixel x y item src =
        ((s.withPipe (s.pipeBack (pixAddr s.params x y) p)).memWrite (pixAddr s.params x y)
          (s.pipeBack (pixAddr s.params x y) p).out).markDirty (pixAddr s.params x y) ∧
      p = s.compareStage s.regs.cmpMode (s.pipeFront item src) ∧
      s.regs.inClip x y = true ∧
        cmpPass s.regs.cmpMode s.params.pb s.regs.colorCmp (s.pipeFront item src).src = true) := by
  unfold State.pixel
  dsimp only
  by_cases h : s.regs.inClip x y = true
  · rw [if_pos h]
    by_cases h2 : (s.compareStage s.regs.cmpMode (s.pipeFront item src)).pass = true
    · rw [if_pos h2]
      exact .inr ⟨_, rfl, rfl, h, h2⟩
    · rw [if_neg h2]
      exact .inl ⟨_, rfl, fun hh => h2 hh.2⟩
  · rw [if_neg h]
    exact .inl ⟨_, rfl, fun hh => h hh.1⟩

/-- A pixel leaves everything but the framebuffer, the dirty bits and the pipeline's variables. -/
theorem pixel_frame (s : State) (x y : Half) (item : Item) (src : Option Nat) :
    s.pixel x y item src =
      { s with
        fb := (s.pixel x y item src).fb, dirty := (s.pixel x y item src).dirty,
        pipe := (s.pixel x y item src).pipe } := by
  rcases pixel_cases s x y item src with ⟨p, h, -⟩ | ⟨p, h, -⟩ <;> rw [h] <;> rfl

@[simp] theorem pixel_params (s : State) (x y : Half) (item : Item) (src : Option Nat) :
    (s.pixel x y item src).params = s.params := by rw [pixel_frame]
@[simp] theorem pixel_regs (s : State) (x y : Half) (item : Item) (src : Option Nat) :
    (s.pixel x y item src).regs = s.regs := by rw [pixel_frame]
@[simp] theorem pixel_ex (s : State) (x y : Half) (item : Item) (src : Option Nat) :
    (s.pixel x y item src).ex = s.ex := by rw [pixel_frame]

/-! ## What every run keeps -/

/-- Everything but the framebuffer, the dirty bits, the pipeline's variables, the execution state and the
register file is the same. -/
def engineFrame (s t : State) : Prop :=
  t.params = s.params ∧ t.queue = s.queue ∧ t.wakePending = s.wakePending ∧ t.stop = s.stop ∧
    t.cstate = s.cstate ∧ t.busy = s.busy ∧ t.pstate = s.pstate ∧ t.hstate = s.hstate ∧ t.out = s.out ∧
    t.inputs = s.inputs ∧ t.freeCtr = s.freeCtr

theorem engineFrame.eq {s t : State} (h : engineFrame s t) :
    t = { s with fb := t.fb, dirty := t.dirty, pipe := t.pipe, ex := t.ex, regs := t.regs } := by
  obtain ⟨h1, h2, h3, h4, h5, h6, h7, h8, h9, h10, h11⟩ := h
  rw [← h1, ← h2, ← h3, ← h4, ← h5, ← h6, ← h7, ← h8, ← h9, ← h10, ← h11]

theorem engineFrame.trans {s t u : State} (h : engineFrame s t) (h' : engineFrame t u) : engineFrame s u := by
  unfold engineFrame at *
  simp_all

theorem pixel_engineFrame (s : State) (x y : Half) (item : Item) (src : Option Nat) :
    engineFrame s (s.pixel x y item src) := by
  rw [pixel_frame]
  exact ⟨rfl, rfl, rfl, rfl, rfl, rfl, rfl, rfl, rfl, rfl, rfl⟩

theorem EngineRun.engineFrame {s t : State} (h : EngineRun s t) : engineFrame s t := by
  induction h with
  | refl => exact ⟨rfl, rfl, rfl, rfl, rfl, rfl, rfl, rfl, rfl, rfl, rfl⟩
  | pixel x y item src _ ih => exact ih.trans (pixel_engineFrame _ x y item src)
  | ex e _ ih => exact ih
  | regs r _ _ ih => exact ih

/-- A run leaves everything but the framebuffer, the dirty bits, the pipeline's variables, the execution
state and the registers that no pixel reads. -/
theorem EngineRun.frame {s t : State} (h : EngineRun s t) :
    t = { s with fb := t.fb, dirty := t.dirty, pipe := t.pipe, ex := t.ex, regs := t.regs } :=
  h.engineFrame.eq

theorem EngineRun.live {s t : State} (h : EngineRun s t) : sameLive s.regs t.regs := by
  induction h with
  | refl => exact sameLive.refl _
  | pixel x y item src _ ih => rw [pixel_regs]; exact ih
  | ex e _ ih => exact ih
  | regs r hr _ ih => exact ih.trans hr

theorem EngineRun.params {s t : State} (h : EngineRun s t) : t.params = s.params := by
  exact h.engineFrame.1

theorem EngineRun.queue {s t : State} (h : EngineRun s t) : t.queue = s.queue := by
  exact h.engineFrame.2.1

theorem sameLive.mf {r r' : Regs} (h : sameLive r r') : r'.mf = r.mf := by rw [h]

theorem sameLive.inClip {r r' : Regs} (h : sameLive r r') (x y : Half) : r'.inClip x y = r.inClip x y := by
  unfold Regs.inClip Regs.scissorsL Regs.scissorsR Regs.scissorsT Regs.scissorsB
  rw [h.mf]

/-- The framebuffer of a state after a pixel: as before, or one value written at an address of a pixel
inside the clip. -/
theorem pixel_fb (s : State) (x y : Half) (item : Item) (src : Option Nat) :
    ((s.pixel x y item src).fb = s.fb ∧ (s.pixel x y item src).dirty = s.dirty) ∨
    ∃ p, s.regs.inClip x y = true ∧
      p = s.pipeBack (pixAddr s.params x y) (s.compareStage s.regs.cmpMode (s.pipeFront item src)) ∧
      (s.pixel x y item src).fb =
        scatterLE s.params.vramBytes (pixAddr s.params x y) p.out s.fb s.params.pb ∧
      (s.pixel x y item src).dirty = insertPage (pageOf (pixAddr s.params x y)) s.dirty := by
  rcases pixel_cases s x y item src with ⟨p, h, -⟩ | ⟨p, h, hp, hc, -⟩
  · left; rw [h]; exact ⟨rfl, rfl⟩
  · right; exact ⟨s.pipeBack (pixAddr s.params x y) p, hc, by rw [hp], by rw [h]; rfl, by rw [h]; rfl⟩

theorem EngineRun.fb_wf {s t : State} (h : EngineRun s t) (hw : Memory.wf s.fb) : Memory.wf t.fb := by
  induction h with
  | refl => exact hw
  | @pixel t x y item src _ ih =>
    rcases pixel_fb t x y item src with ⟨h1, -⟩ | ⟨p, -, -, h1, -⟩
    · rw [h1]; exact ih
    · rw [h1]; exact scatterLE_wf ih _
  | ex e _ ih => exact ih
  | regs r _ _ ih => exact ih

/-- A run changes no byte outside the pixels inside the clip rectangle (43 R266). -/
theorem EngineRun.clip {s t : State} (h : EngineRun s t) (hw : Memory.wf s.fb) (a : Nat)
    (ha : ∀ x y, s.regs.inClip x y = true → ¬ pixelBytes s.params x y a) : t.fb.read a = s.fb.read a := by
  induction h with
  | refl => rfl
  | @pixel t x y item src ht ih =>
    rcases pixel_fb t x y item src with ⟨h1, -⟩ | ⟨p, hc, -, h1, -⟩
    · rw [h1]; exact ih
    · rw [h1, read_scatterLE_other (ht.fb_wf hw)]
      · exact ih
      · rintro i hi rfl
        rw [ht.live.inClip] at hc
        refine ha x y hc ⟨i, ?_, ?_⟩
        · rwa [ht.params] at hi
        · rw [ht.params]
  | ex e _ ih => exact ih
  | regs r _ _ ih => exact ih

/-! ## Pixel addresses -/

theorem configOk_pb {pb pitch v : Nat} (h : configOk pb pitch v = true) : pb = 1 ∨ pb = 2 ∨ pb = 4 := by
  simp only [configOk, Bool.and_eq_true, Bool.or_eq_true, beq_iff_eq] at h
  tauto

theorem configOk_vram {pb pitch v : Nat} (h : configOk pb pitch v = true) :
    ∃ k, 16 ≤ k ∧ k ≤ 24 ∧ v = 2 ^ k := by
  simp only [configOk, Bool.and_eq_true, List.contains_iff_mem] at h
  have h2 := h.2
  simp only [List.mem_cons, List.not_mem_nil, or_false] at h2
  rcases h2 with h2 | h2 | h2 | h2 | h2 | h2 | h2 | h2 | h2
  · exact ⟨16, by omega, by omega, by omega⟩
  · exact ⟨17, by omega, by omega, by omega⟩
  · exact ⟨18, by omega, by omega, by omega⟩
  · exact ⟨19, by omega, by omega, by omega⟩
  · exact ⟨20, by omega, by omega, by omega⟩
  · exact ⟨21, by omega, by omega, by omega⟩
  · exact ⟨22, by omega, by omega, by omega⟩
  · exact ⟨23, by omega, by omega, by omega⟩
  · exact ⟨24, by omega, by omega, by omega⟩

theorem configOk_iff (pb pitch v : Nat) :
    configOk pb pitch v = true ↔
      (pb = 1 ∨ pb = 2 ∨ pb = 4) ∧ 1 ≤ pitch ∧ pitch ≤ 4096 ∧ ∃ k, 16 ≤ k ∧ k ≤ 24 ∧ v = 2 ^ k := by
  refine ⟨fun h => ⟨configOk_pb h, ?_, ?_, configOk_vram h⟩, ?_⟩
  · simp only [configOk, Bool.and_eq_true, decide_eq_true_eq] at h; exact h.1.2.1
  · simp only [configOk, Bool.and_eq_true, decide_eq_true_eq] at h; exact h.1.2.2
  · rintro ⟨h1, h2, h3, k, h4, h5, rfl⟩
    have hk : k = 16 ∨ k = 17 ∨ k = 18 ∨ k = 19 ∨ k = 20 ∨ k = 21 ∨ k = 22 ∨ k = 23 ∨ k = 24 := by omega
    have h1' : (pb == 1 || pb == 2 || pb == 4) = true := by
      simp only [Bool.or_eq_true, beq_iff_eq]; tauto
    simp only [configOk, h1', Bool.true_and, Bool.and_eq_true, decide_eq_true_eq]
    refine ⟨⟨h2, h3⟩, ?_⟩
    rcases hk with h | h | h | h | h | h | h | h | h <;> subst h <;> rfl

/-- The size of the framebuffer is a whole number of dirty pages and of pixels. -/
theorem vram_multiple {pb pitch v : Nat} (h : configOk pb pitch v = true) : ∃ m, 0 < m ∧ v = 4096 * m ∧ v = pb * (v / pb) := by
  obtain ⟨k, h1, -, rfl⟩ := configOk_vram h
  refine ⟨2 ^ (k - 12), Nat.pow_pos (by omega), ?_, ?_⟩
  · rw [show (4096 : Nat) = 2 ^ 12 by norm_num, ← Nat.pow_add]; congr 1; omega
  · have hd : pb ∣ 2 ^ k := by
      rcases configOk_pb h with h | h | h <;> subst h
      · exact Nat.one_dvd _
      · exact dvd_pow_self 2 (by omega)
      · exact (show (4 : Nat) = 2 ^ 2 by norm_num) ▸ Nat.pow_dvd_pow 2 (by omega)
    exact (Nat.mul_div_cancel' hd).symm

theorem pixAddr_facts {p : Params} (h : configOk p.pb p.pitch p.vramBytes = true) (x y : Half) :
    ∃ u, pixAddr p x y = u * p.pb ∧ u < p.vramBytes / p.pb := by
  obtain ⟨m, hm, hv, hd⟩ := vram_multiple h
  have hpb : 0 < p.pb := by rcases configOk_pb h with h | h | h <;> omega
  have hq : 0 < p.vramBytes / p.pb := by
    rcases Nat.eq_zero_or_pos (p.vramBytes / p.pb) with h0 | h0
    · rw [h0] at hd; omega
    · exact h0
  refine ⟨_, rfl, ?_⟩
  have h1 := Int.emod_nonneg (y.toInt * (p.pitch : Int) + x.toInt) (b := ((p.vramBytes / p.pb : Nat) : Int)) (by omega)
  have h2 := Int.emod_lt_of_pos (y.toInt * (p.pitch : Int) + x.toInt) (b := ((p.vramBytes / p.pb : Nat) : Int)) (by omega)
  omega

/-- The bytes of a pixel lie inside the framebuffer. -/
theorem pixAddr_lt {p : Params} (h : configOk p.pb p.pitch p.vramBytes = true) (x y : Half) {i : Nat} (hi : i < p.pb) :
    pixAddr p x y + i < p.vramBytes := by
  obtain ⟨u, hu, hlt⟩ := pixAddr_facts h x y
  obtain ⟨m, hm, hv, hd⟩ := vram_multiple h
  have : (u + 1) * p.pb ≤ p.vramBytes / p.pb * p.pb := Nat.mul_le_mul_right _ hlt
  rw [Nat.add_mul, Nat.one_mul] at this
  rw [Nat.mul_comm] at hd
  omega

theorem pixAddr_mod {p : Params} (h : configOk p.pb p.pitch p.vramBytes = true) (x y : Half) {i : Nat} (hi : i < p.pb) :
    (pixAddr p x y + i) % p.vramBytes = pixAddr p x y + i := Nat.mod_eq_of_lt (pixAddr_lt h x y hi)

/-- A pixel lies in one dirty page (43 R262). -/
theorem pixAddr_page {p : Params} (h : configOk p.pb p.pitch p.vramBytes = true) (x y : Half) {i : Nat} (hi : i < p.pb) :
    (pixAddr p x y + i) / 4096 = pageOf (pixAddr p x y) := by
  obtain ⟨u, hu, -⟩ := pixAddr_facts h x y
  show _ = pixAddr p x y / 2 ^ 12
  rw [hu]
  rcases configOk_pb h with h | h | h <;> rw [h] at hi ⊢ <;> omega

/-! ## Reading a pixel back -/

/-- The bytes of a pixel after its write. -/
theorem read_pixel_write {s : State} (h : configOk s.params.pb s.params.pitch s.params.vramBytes = true)
    (hw : Memory.wf s.fb) (x y : Half) (v : Word) {i : Nat} (hi : i < s.params.pb) :
    (scatterLE s.params.vramBytes (pixAddr s.params x y) v s.fb s.params.pb).read (pixAddr s.params x y + i) =
      byteOf v i := by
  have := read_scatterLE_same (size := s.params.vramBytes) (a := pixAddr s.params x y) (v := v) hw s.params.pb i hi
    (fun j hj he => by
      rw [pixAddr_mod h x y hj, pixAddr_mod h x y hi] at he; omega)
  rwa [pixAddr_mod h x y hi] at this

/-- Writing a pixel's own value back leaves the framebuffer as it is. -/
theorem scatterLE_self {s : State} (hw : Memory.wf s.fb) (hp : s.params.pb ≤ 4) (a n : Nat) (hn : n ≤ s.params.pb) :
    scatterLE s.params.vramBytes a (s.memRead a) s.fb n = s.fb := by
  induction n with
  | zero => rfl
  | succ n ih =>
    unfold scatterLE
    rw [ih (by omega)]
    have : byteOf (s.memRead a) n = s.fb.read ((a + n) % s.params.vramBytes) := by
      unfold State.memRead
      rw [byteOf_gatherLE _ (by omega) hp]; rfl
    rw [this]
    exact Memory.write_read hw _

/-- A value read from memory has no bit above the pixel. -/
theorem memRead_mask (s : State) (a : Nat) : s.memRead a &&& pixMask s.params.pb = s.memRead a := by
  apply BitVec.eq_of_getLsbD_eq
  intro k hk
  unfold pixMask State.memRead
  rw [BitVec.getLsbD_and, pixMask_bit_eq _ _ hk, gatherLE_bit _ _ hk]
  by_cases h : k < 8 * s.params.pb <;> simp [h]

end Sys2Proof.Machine
end

