-- ==== Sys2Proof/Laws/Geometry.lean ====
section
/-! SUPPORT. Where the engine stands after each STEP of a primitive without feed: closed forms of the
iteration state (44 R301, R302, R303, R311, R321, R331), and what START then leaves. -/

namespace Sys2Proof.Machine

open Sys2Proof

/-! ## The iteration state alone -/

/-- The execution state after `n` STEPs. -/
def advN : Nat → Ex → Ex
  | 0, e => e
  | n + 1, e => advN n (advance e).1

theorem advN_succ (n : Nat) (e : Ex) : advN (n + 1) e = (advance (advN n e)).1 := by
  induction n generalizing e with
  | zero => rfl
  | succ n ih => exact ih (advance e).1

theorem engineStep_ex (item : Item) (s : State) : (engineStep item s).1.ex = (advance s.ex).1 := rfl

theorem engineStep_ev (item : Item) (s : State) : (engineStep item s).2 = (advance s.ex).2 := rfl

/-- A run that meets no DONE before its last STEP makes every STEP. -/
theorem runSteps_ex (n : Nat) (s : State) (h : ∀ k, k + 1 < n → (advance (advN k s.ex)).2 ≠ .done) :
    (runSteps n s).ex = advN n s.ex := by
  induction n generalizing s with
  | zero => rfl
  | succ n ih =>
    unfold runSteps
    have hx := engineStep_ex .none s
    have hv := engineStep_ev .none s
    split
    · rename_i s' heq
      rw [heq] at hx hv
      have hn : n = 0 := by
        rcases Nat.eq_zero_or_pos n with hn | hn
        · exact hn
        · exact absurd hv.symm (h 0 (by omega))
      subst hn; exact hx
    · rename_i s' ev hne heq
      rw [heq] at hx
      rw [ih s' (fun k hk => by rw [hx]; exact h (k + 1) (by omega)), hx]
      rfl

/-! ## Area primitives -/

/-- The iteration state in row `j`, at pixel `i` of the row, of a primitive that starts with `e`. -/
def areaAt (e : Ex) (j i : Nat) : Ex :=
  { e with
    x := e.x0 + BitVec.ofNat 16 i * xStep e.cmd
    y := e.y + BitVec.ofNat 16 j * yStep e.cmd
    sx := if e.cls = .blit then e.sx0 + BitVec.ofNat 16 i * xStep e.cmd else e.sx
    sy := if e.cls = .blit then e.sy + BitVec.ofNat 16 j * yStep e.cmd else e.sy
    px := if e.cls = .pat then e.px0 + BitVec.ofNat 3 i * (xStep e.cmd).setWidth 3 else e.px
    py := if e.cls = .pat then e.py + BitVec.ofNat 3 j * (yStep e.cmd).setWidth 3 else e.py
    left := e.w.toNat - i
    rows := e.rows - j }

/-- A start of an area primitive: at the first pixel of a row. -/
def areaStart (e : Ex) : Prop :=
  e.cls ≠ .line ∧ e.x = e.x0 ∧ e.left = e.w.toNat ∧ (e.cls = .blit → e.sx = e.sx0) ∧ (e.cls = .pat → e.px = e.px0)

theorem areaAt_start {e : Ex} (h : areaStart e) : areaAt e 0 0 = e := by
  obtain ⟨-, h1, h2, h3, h4⟩ := h
  unfold areaAt
  have e1 : (if e.cls = .blit then e.sx0 + BitVec.ofNat 16 0 * xStep e.cmd else e.sx) = e.sx := by
    split
    · rename_i hc; rw [h3 hc]; simp
    · rfl
  have e2 : (if e.cls = .pat then e.px0 + BitVec.ofNat 3 0 * (xStep e.cmd).setWidth 3 else e.px) = e.px := by
    split
    · rename_i hc; rw [h4 hc]; simp
    · rfl
  have e3 : e.x0 + BitVec.ofNat 16 0 * xStep e.cmd = e.x := by rw [h1]; simp
  have e4 : e.w.toNat - 0 = e.left := by rw [h2]; rfl
  rw [e1, e2, e3, e4]
  simp

theorem ofNat_succ_mul {n : Nat} (a c : BitVec n) (i : Nat) :
    a + BitVec.ofNat n i * c + c = a + BitVec.ofNat n (i + 1) * c := by
  have : BitVec.ofNat n (i + 1) = BitVec.ofNat n i + 1#n := by
    rw [BitVec.ofNat_add]
  rw [this, BitVec.add_assoc]
  congr 1
  rw [BitVec.add_mul]
  simp

/-- A STEP inside a row. -/
theorem advance_areaAt_in {e : Ex} (hl : e.cls ≠ .line) (j i : Nat) (hi : i + 1 < e.w.toNat) :
    advance (areaAt e j i) = (areaAt e j (i + 1), .cont) := by
  have hx := ofNat_succ_mul e.x0 (xStep e.cmd) i
  have hs := ofNat_succ_mul e.sx0 (xStep e.cmd) i
  have hp := ofNat_succ_mul e.px0 ((xStep e.cmd).setWidth 3) i
  have hL : e.w.toNat - i - 1 = e.w.toNat - (i + 1) := by omega
  have hpos : 0 < e.w.toNat - (i + 1) := by omega
  unfold advance
  cases hc : e.cls with
  | line => exact absurd hc hl
  | rect => simp [areaAt, hc, advanceRect, hx, hL, hpos]
  | blit => simp [areaAt, hc, advanceBlit, hx, hs, hL, hpos]
  | pat => simp [areaAt, hc, advancePat, hx, hp, hL, hpos]

/-- The STEP that ends a row. -/
theorem advance_areaAt_end {e : Ex} (hl : e.cls ≠ .line) (j i : Nat) (hi : i + 1 = e.w.toNat) :
    advance (areaAt e j i) = (areaAt e (j + 1) 0, if e.rows - j - 1 < 0 then .done else .rowEnd) := by
  have hy := ofNat_succ_mul e.y (yStep e.cmd) j
  have hs := ofNat_succ_mul e.sy (yStep e.cmd) j
  have hp := ofNat_succ_mul e.py ((yStep e.cmd).setWidth 3) j
  have hL : ¬ 0 < e.w.toNat - i - 1 := by omega
  have hr : e.rows - (j : Int) - 1 = e.rows - ((j + 1 : Nat) : Int) := by push_cast; omega
  unfold advance
  cases hc : e.cls with
  | line => exact absurd hc hl
  | rect => simp [areaAt, hc, advanceRect, hL, hy, hr]
  | blit => simp [areaAt, hc, advanceBlit, hL, hy, hs, hr]
  | pat => simp [areaAt, hc, advancePat, hL, hy, hp, hr]

/-- The closed form of the iteration: after `j` whole rows and `i` pixels. -/
theorem advN_area {e : Ex} (h : areaStart e) (j i : Nat) (hi : i < e.w.toNat) :
    advN (j * e.w.toNat + i) e = areaAt e j i := by
  induction j generalizing i with
  | zero =>
    induction i with
    | zero => simp [advN, areaAt_start h]
    | succ i ih =>
      have ih := ih (by omega)
      rw [← Nat.add_assoc, advN_succ, ih, advance_areaAt_in h.1 0 i hi]
  | succ j ihj =>
    induction i with
    | zero =>
      have hlast := ihj (e.w.toNat - 1) (by omega)
      have : (j + 1) * e.w.toNat + 0 = j * e.w.toNat + (e.w.toNat - 1) + 1 := by
        rw [Nat.succ_mul]; omega
      rw [this, advN_succ, hlast, advance_areaAt_end h.1 j (e.w.toNat - 1) (by omega)]
    | succ i ih =>
      have ih := ih (by omega)
      rw [← Nat.add_assoc, advN_succ, ih, advance_areaAt_in h.1 (j + 1) i hi]

/-- The event of each STEP: DONE only at the last pixel of the last row. -/
theorem advance_area_not_done {e : Ex} (h : areaStart e) (rows : Nat) (hr : e.rows = (rows : Int) - 1)
    (k : Nat) (hk : k + 1 < rows * e.w.toNat) : (advance (advN k e)).2 ≠ .done := by
  have hw : 0 < e.w.toNat := by
    rcases Nat.eq_zero_or_pos e.w.toNat with h0 | h0
    · rw [h0] at hk; omega
    · exact h0
  have hkd : k / e.w.toNat * e.w.toNat + k % e.w.toNat = k := Nat.div_add_mod' k e.w.toNat
  have hm : k % e.w.toNat < e.w.toNat := Nat.mod_lt _ hw
  rw [← hkd, advN_area h _ _ hm]
  by_cases hend : k % e.w.toNat + 1 = e.w.toNat
  · rw [advance_areaAt_end h.1 _ _ hend]
    have : k / e.w.toNat + 1 < rows := by
      by_contra hcon
      have h1 : rows * e.w.toNat ≤ (k / e.w.toNat + 1) * e.w.toNat := Nat.mul_le_mul_right _ (by omega)
      rw [Nat.succ_mul] at h1
      omega
    dsimp only
    rw [if_neg (by rw [hr]; omega)]
    simp
  · rw [advance_areaAt_in h.1 _ _ (by omega)]
    simp

/-- A whole run of an area primitive: the iteration ends after exactly its rows (44 R283, R296). -/
theorem runSteps_area (s : State) (h : areaStart s.ex) (rows : Nat) (hr : s.ex.rows = (rows : Int) - 1)
    (hw : 0 < s.ex.w.toNat) : (runSteps (rows * s.ex.w.toNat) s).ex = areaAt s.ex rows 0 := by
  rw [runSteps_ex _ _ (fun k hk => advance_area_not_done h rows hr k hk)]
  have := advN_area h rows 0 hw
  simpa using this

/-! ## Lines -/

theorem advanceLine_left (e : Ex) (hl : e.cls = .line) : (advance e).1.left = e.left - 1 ∧ (advance e).1.cls = .line ∧
    (advance e).1.cmd = e.cmd ∧ (advance e).1.maj = e.maj ∧ (advance e).1.ax = e.ax ∧ (advance e).1.dia = e.dia ∧
    ((advance e).2 = .done ↔ e.left - 1 = 0) := by
  unfold advance
  rw [hl]
  simp only [advanceLine, stepRadial, stepBresenham]
  refine ⟨?_, ?_, ?_, ?_, ?_, ?_, ?_⟩ <;> (repeat' split) <;> simp_all

theorem advN_line (e : Ex) (hl : e.cls = .line) (n : Nat) : (advN n e).left = e.left - n ∧ (advN n e).cls = .line ∧
    (advN n e).cmd = e.cmd ∧ (advN n e).maj = e.maj ∧ (advN n e).ax = e.ax ∧ (advN n e).dia = e.dia := by
  induction n with
  | zero => exact ⟨rfl, hl, rfl, rfl, rfl, rfl⟩
  | succ n ih =>
    obtain ⟨h1, h2, h3, h4, h5, h6⟩ := ih
    obtain ⟨g1, g2, g3, g4, g5, g6, -⟩ := advanceLine_left _ h2
    rw [advN_succ]
    exact ⟨by rw [g1, h1]; omega, g2, g3.trans h3, g4.trans h4, g5.trans h5, g6.trans h6⟩

/-- A whole run of a Line makes as many STEPs as it has pixels. -/
theorem runSteps_line (s : State) (hl : s.ex.cls = .line) : (runSteps s.ex.left s).ex = advN s.ex.left s.ex := by
  apply runSteps_ex
  intro k hk hd
  obtain ⟨h1, h2, -⟩ := advN_line s.ex hl k
  have := (advanceLine_left _ h2).2.2.2.2.2.2.1 hd
  omega

/-- Position and error term of a Line after `n` STEPs, as an iteration of one move. -/
theorem advN_line_iterate (move : Half × Half × Half → Half × Half × Half) (e : Ex) (hl : e.cls = .line)
    (hm : ∀ e' : Ex, e'.cls = .line → e'.cmd = e.cmd → e'.maj = e.maj → e'.ax = e.ax → e'.dia = e.dia →
      ((advance e').1.x, (advance e').1.y, (advance e').1.err) = move (e'.x, e'.y, e'.err)) (n : Nat) :
    ((advN n e).x, (advN n e).y, (advN n e).err) = move^[n] (e.x, e.y, e.err) := by
  induction n with
  | zero => rfl
  | succ n ih =>
    obtain ⟨-, h2, h3, h4, h5, h6⟩ := advN_line e hl n
    rw [advN_succ, Function.iterate_succ_apply', ← ih]
    exact hm _ h2 h3 h4 h5 h6

/-! ## Coordinates -/

/-- `n` unit steps are a step of `±n` (44 R288). -/
theorem add_steps (x : Half) (b : Bool) (n : Nat) :
    x + BitVec.ofNat 16 n * unitStep b = BitVec.ofInt 16 (x.toInt + (if b = true then 1 else -1) * (n : Int)) := by
  have hx : BitVec.ofInt 16 x.toInt = x := BitVec.ofInt_toInt
  rw [BitVec.ofInt_add, hx, BitVec.ofInt_mul]
  congr 1
  rw [BitVec.mul_comm]
  congr 1
  cases b <;> rfl

theorem restY_eq (c v : Half) (h : Slot12) :
    restY c v h = BitVec.ofInt 16 (v.toInt + (if c.getLsbD 7 = true then 1 else -1) * (h.toNat : Int)) := by
  rw [← add_steps]
  unfold restY yStep
  rw [BitVec.mul_comm]
  congr 2
  exact (BitVec.ofNat_toNat (m := 16) (x := h)).symm

end Sys2Proof.Machine
end

