-- ==== Sys2Proof/Laws/Commands.lean ====
section
/-! SUPPORT. What START leaves, class by class (44 R280 to R285), and the resting values of the
primitives without feed. -/

namespace Sys2Proof.Machine

open Sys2Proof

/-- The state after a command word is latched, a waiting primitive abandoned and the stage emptied. -/
def State.cleared (s : State) (c : Half) : State :=
  { s with regs := { s.regs with cmd := c, stageCnt := 0 }, ex := { s.ex with active := false } }

theorem clearWaiting_eq (s : State) (c : Half) :
    (s.withRegs { s.regs with cmd := c }).clearWaiting = s.cleared c := by
  unfold State.clearWaiting State.cleared
  dsimp only
  by_cases h : s.ex.active = true
  · rw [if_pos (by exact h)]; rfl
  · rw [if_neg (by exact h)]
    have : ({ s.ex with active := false } : Ex) = s.ex := by
      have hf : s.ex.active = false := by simpa using h
      rw [← hf]
    rw [this]; rfl

/-- The execution state a command of class `cls` begins with. -/
def State.exAtStart (s : State) (cls : Cls) (c : Half) : Ex :=
  startEx s.params (s.cleared c).regs (s.cleared c).ex cls c

theorem setupClass_fields (r : Regs) (e : Ex) :
    (setupClass r e).cls = e.cls ∧ (setupClass r e).cmd = e.cmd ∧ (setupClass r e).ms = e.ms ∧
      (setupClass r e).feed = e.feed ∧ (setupClass r e).u = e.u ∧ (setupClass r e).active = e.active := by
  unfold setupClass
  cases e.cls <;> exact ⟨rfl, rfl, rfl, rfl, rfl, rfl⟩

theorem setupFeed_fields (pb : Nat) (c : Half) (e : Ex) :
    (setupFeed pb c e).cls = e.cls ∧ (setupFeed pb c e).cmd = e.cmd ∧ (setupFeed pb c e).ms = e.ms ∧
      (setupFeed pb c e).active = e.active := by
  unfold setupFeed
  repeat' split
  all_goals exact ⟨rfl, rfl, rfl, rfl⟩

theorem setupFeed_none (pb : Nat) (c : Half) (e : Ex) : (setupFeed pb c e).feed = .none ↔ pcData c = false := by
  unfold setupFeed
  repeat' split
  all_goals simp_all

theorem exAtStart_fields (s : State) (cls : Cls) (c : Half) :
    (s.exAtStart cls c).cls = cls ∧ (s.exAtStart cls c).cmd = c ∧
      (s.exAtStart cls c).ms = s.regs.mixSel ∧ (s.exAtStart cls c).active = false ∧
      ((s.exAtStart cls c).feed = .none ↔ pcData c = false) := by
  unfold State.exAtStart startEx
  obtain ⟨h1, h2, h3, h4, -, h6⟩ := setupClass_fields (s.cleared c).regs
    (setupFeed s.params.pb c { (s.cleared c).ex with cls := cls, cmd := c, ms := (s.cleared c).regs.mixSel })
  obtain ⟨g1, g2, g3, g4⟩ := setupFeed_fields s.params.pb c
    { (s.cleared c).ex with cls := cls, cmd := c, ms := (s.cleared c).regs.mixSel }
  refine ⟨h1.trans g1, h2.trans g2, (h3.trans g3).trans rfl, (h6.trans g4).trans rfl, ?_⟩
  rw [h4]
  exact setupFeed_none _ _ _

/-- A command word of a no-op class (44 R282). -/
theorem commitCmd_none {s : State} {c : Half} (h : classOf c = none) : s.commitCmd c = s.cleared c := by
  unfold State.commitCmd State.start
  dsimp only
  rw [clearWaiting_eq, h]

theorem commitCmd_some {s : State} {c : Half} {cls : Cls} (h : classOf c = some cls) :
    s.commitCmd c =
      if extentOf cls s.regs = 0 then
        ((s.cleared c).withEx (s.exAtStart cls c)).withRegs
          (zeroExtentRegs (s.exAtStart cls c) (s.cleared c).regs)
      else if pcData c = false then
        ((s.cleared c).withEx (s.exAtStart cls c)).runPrimitive (extentOf cls s.regs)
      else (s.cleared c).withEx { s.exAtStart cls c with active := true } := by
  have hx : extentOf cls (s.cleared c).regs = extentOf cls s.regs := by cases cls <;> rfl
  have hf := (exAtStart_fields s cls c).2.2.2.2
  unfold State.commitCmd State.start
  dsimp only
  rw [clearWaiting_eq, h]
  dsimp only
  rw [State.withEx_regs, hx]
  by_cases h0 : extentOf cls s.regs = 0
  · rw [if_pos h0, if_pos h0]; rfl
  · rw [if_neg h0, if_neg h0]
    by_cases h1 : pcData c = false
    · rw [if_pos h1, if_pos (by exact hf.2 h1)]; rfl
    · rw [if_neg h1, if_neg (by exact fun hh => h1 (hf.1 hh))]; rfl

/-- STEPs leave the register file. -/
theorem runSteps_regs (n : Nat) (s : State) : (runSteps n s).regs = s.regs := by
  induction n generalizing s with
  | zero => rfl
  | succ n ih =>
    have h : (engineStep .none s).1.regs = s.regs := by simp [engineStep]
    unfold runSteps
    split
    · rename_i heq; rw [heq] at h; exact h
    · rename_i heq; rw [heq] at h; rw [ih, h]

theorem finish_regs (s : State) : s.finish.regs = writebackRegs s.ex s.regs := rfl
theorem finish_ex (s : State) : s.finish.ex = { s.ex with active := false } := rfl

/-- A run without feed: the registers are written back from the last iteration state (44 R285, R296). -/
theorem runPrimitive_spec (n : Nat) (s : State) :
    (s.runPrimitive n).regs = writebackRegs (runSteps n s).ex s.regs ∧ (s.runPrimitive n).ex.active = false := by
  unfold State.runPrimitive
  rw [finish_regs, finish_ex, runSteps_regs]
  exact ⟨rfl, rfl⟩

/-- A command of class `cls` without feed or with a zero extent: everything is as before but the
framebuffer, the dirty bits, the pipeline's variables, the execution state, which is not active, and the
registers, which are those of the last iteration state. -/
theorem commitCmd_rest {s : State} {c : Half} {cls : Cls} (h : classOf c = some cls)
    (hp : pcData c = false ∨ extentOf cls s.regs = 0) :
    ∃ fb dirty pipe e,
      s.commitCmd c = { s with
        fb := fb, dirty := dirty, pipe := pipe, ex := e,
        regs := if extentOf cls s.regs = 0 then zeroExtentRegs (s.exAtStart cls c) (s.cleared c).regs
          else writebackRegs
            (runSteps (extentOf cls s.regs) ((s.cleared c).withEx (s.exAtStart cls c))).ex (s.cleared c).regs } ∧
      e.active = false ∧ (extentOf cls s.regs = 0 → fb = s.fb ∧ dirty = s.dirty) := by
  rw [commitCmd_some h]
  by_cases h0 : extentOf cls s.regs = 0
  · rw [if_pos h0, if_pos h0]
    exact ⟨_, _, _, _, rfl, (exAtStart_fields s cls c).2.2.2.1, fun _ => ⟨rfl, rfl⟩⟩
  · rw [if_neg h0, if_neg h0]
    have h1 : pcData c = false := by tauto
    rw [if_pos h1]
    obtain ⟨g1, g2⟩ := runPrimitive_spec (extentOf cls s.regs) ((s.cleared c).withEx (s.exAtStart cls c))
    generalize ht : ((s.cleared c).withEx (s.exAtStart cls c)).runPrimitive (extentOf cls s.regs) = t at *
    refine ⟨t.fb, t.dirty, t.pipe, t.ex, ?_, g2, fun hh => absurd hh h0⟩
    have hr := (ht ▸ runPrimitive_run (extentOf cls s.regs) ((s.cleared c).withEx (s.exAtStart cls c)) :
      EngineRun ((s.cleared c).withEx (s.exAtStart cls c)) t).frame
    rw [hr, g1]
    rfl

/-- The start of an area primitive. -/
theorem exAtStart_area (s : State) (cls : Cls) (c : Half) (hc : cls ≠ .line) :
    areaStart (s.exAtStart cls c) ∧ (s.exAtStart cls c).w = s.regs.majAxisPcnt ∧
      (s.exAtStart cls c).rows = (s.regs.minAxisPcnt.toNat : Int) - 1 := by
  obtain ⟨h1, -⟩ := exAtStart_fields s cls c
  refine ⟨⟨by rw [h1]; exact hc, ?_⟩, ?_⟩
  all_goals
    unfold State.exAtStart startEx setupClass
    rw [(setupFeed_fields _ _ _).1]
    cases cls
    · exact absurd rfl hc
    all_goals simp [State.cleared, Regs.minAxisPcnt]

/-- The iteration state an area primitive ends with. -/
theorem area_end (s : State) (cls : Cls) (c : Half) (hc : cls ≠ .line) (h0 : extentOf cls s.regs ≠ 0) :
    (runSteps (extentOf cls s.regs) ((s.cleared c).withEx (s.exAtStart cls c))).ex =
      areaAt (s.exAtStart cls c) s.regs.minAxisPcnt.toNat 0 := by
  obtain ⟨h1, h2, h3⟩ := exAtStart_area s cls c hc
  have hx : extentOf cls s.regs = s.regs.minAxisPcnt.toNat * (s.exAtStart cls c).w.toNat := by
    rw [h2]
    cases cls
    · exact absurd rfl hc
    all_goals simp [extentOf, Nat.mul_comm]
  rw [hx] at h0 ⊢
  refine runSteps_area ((s.cleared c).withEx (s.exAtStart cls c)) h1 s.regs.minAxisPcnt.toNat h3 ?_
  rcases Nat.eq_zero_or_pos (s.exAtStart cls c).w.toNat with hz | hz
  · rw [hz] at h0; omega
  · exact hz

end Sys2Proof.Machine
end

