-- ==== Sys2Proof/Laws/RegFile.lean ====
section
/-! SUPPORT. What a byte write, a list of byte writes and an executed entry can change: the engine's part
of the state and the registers, and nothing of the agents, the queue or the parameters. -/

namespace Sys2Proof.Machine

open Sys2Proof

/-- What executing register bytes is made of: runs of the engine, and writes of registers that leave the
stage's count. -/
inductive RegRun (s : State) : State → Prop
  | refl : RegRun s s
  | engine {t u : State} : RegRun s t → EngineRun t u → RegRun s u
  | regs {t : State} (r : Regs) : r.stageCnt = t.regs.stageCnt → RegRun s t → RegRun s (t.withRegs r)

theorem RegRun.trans {s t u : State} (h : RegRun s t) (h' : RegRun t u) : RegRun s u := by
  induction h' with
  | refl => exact h
  | engine _ he ih => exact .engine ih he
  | regs r hr _ ih => exact .regs r hr ih

/-- One register write that leaves the stage's count. -/
theorem RegRun.one (s : State) (r : Regs) (h : r.stageCnt = s.regs.stageCnt) : RegRun s (s.withRegs r) :=
  .regs r h .refl

theorem writeMultifunc_run (s : State) (lane : BitVec 2) (b : Byte) : RegRun s (s.writeMultifunc lane b) := by
  unfold State.writeMultifunc
  split <;> exact .one _ _ rfl

theorem writeCmd_run (s : State) (lane : BitVec 2) (b : Byte) : EngineRun s (s.writeCmd lane b) := by
  unfold State.writeCmd
  split
  · exact .regs _ (sameLive_rest _) .refl
  · exact commitCmd_run _ s
  · exact .refl

/-- A register write that an unused lane turns away. -/
theorem RegRun.ofLane (s : State) (lane : BitVec 2) (r : Regs) (h : r.stageCnt = s.regs.stageCnt) :
    RegRun s (if unusedLane lane then s else s.withRegs r) := by
  split
  · exact .refl
  · exact .one _ _ h

/-- One byte write, whatever its target (42 R200, R201). -/
theorem byteWrite_run (s : State) (t : Target) (b : Byte) : RegRun s (s.byteWrite t b) := by
  match t with
  | .reg .curY lane => exact .ofLane _ _ _ rfl
  | .reg .curX lane => exact .ofLane _ _ _ rfl
  | .reg .destyAxstp lane => exact .ofLane _ _ _ rfl
  | .reg .destxDiastp lane => exact .ofLane _ _ _ rfl
  | .reg .errTerm lane => exact .ofLane _ _ _ rfl
  | .reg .majAxisPcnt lane => exact .ofLane _ _ _ rfl
  | .reg .cmd lane => exact .engine .refl (writeCmd_run s lane b)
  | .reg .shortStroke lane => exact .ofLane _ _ _ rfl
  | .reg .bkgdColor lane => exact .one _ _ rfl
  | .reg .frgdColor lane => exact .one _ _ rfl
  | .reg .wrtMask lane => exact .one _ _ rfl
  | .reg .rdMask lane => exact .one _ _ rfl
  | .reg .colorCmp lane => exact .one _ _ rfl
  | .reg .bkgdMix lane => exact .ofLane _ _ _ rfl
  | .reg .frgdMix lane => exact .ofLane _ _ _ rfl
  | .reg .multifunc lane => exact writeMultifunc_run s lane b
  | .pixel _ => exact .engine .refl (writePixel_run b s)
  | .none => exact .refl

theorem writeBytes_run (s : State) (l : List (ByteAddr × Byte)) : RegRun s (s.writeBytes l) := by
  induction l generalizing s with
  | nil => exact .refl
  | cons c l ih => exact (byteWrite_run s _ _).trans (ih _)

theorem executeEntry_run (s : State) (sp : BusSpace) (w : Width) (off : BitVec 24) (p : Word) :
    RegRun s (s.executeEntry sp w off p) := writeBytes_run s _

theorem executeWord_run (s : State) (e : EntryWord) : RegRun s (s.executeWord e) := by
  unfold State.executeWord
  split
  · exact executeEntry_run s _ _ _ _
  · exact .refl

/-- What such a run keeps: the parameters, the queue, the agents' state and the outputs. -/
theorem RegRun.engineFrame {s t : State} (h : RegRun s t) : engineFrame s t := by
  induction h with
  | refl => exact ⟨rfl, rfl, rfl, rfl, rfl, rfl, rfl, rfl, rfl, rfl, rfl⟩
  | engine _ he ih => exact ih.trans he.engineFrame
  | regs r _ _ ih => exact ih

/-- What executing register bytes leaves as it is. -/
theorem RegRun.frame {s t : State} (h : RegRun s t) :
    t = { s with fb := t.fb, dirty := t.dirty, pipe := t.pipe, ex := t.ex, regs := t.regs } :=
  h.engineFrame.eq

theorem RegRun.fb_wf {s t : State} (h : RegRun s t) (hw : Memory.wf s.fb) : Memory.wf t.fb := by
  induction h with
  | refl => exact hw
  | engine _ he ih => exact he.fb_wf ih
  | regs r _ _ ih => exact ih

/-- The framebuffer's addresses stay below its size, and the dirty bits a rising list of its pages. -/
theorem EngineRun.bounds {s t : State} (h : EngineRun s t)
    (hv : configOk s.params.pb s.params.pitch s.params.vramBytes = true)
    (hb : (∀ c ∈ s.fb, c.1 < s.params.vramBytes) ∧ s.dirty.Pairwise (· < ·) ∧
      ∀ p ∈ s.dirty, p < pageCount s.params) :
    (∀ c ∈ t.fb, c.1 < s.params.vramBytes) ∧ t.dirty.Pairwise (· < ·) ∧
      ∀ p ∈ t.dirty, p < pageCount s.params := by
  induction h with
  | refl => exact hb
  | @pixel t x y item src ht ih =>
    obtain ⟨i1, i2, i3⟩ := ih
    have hp := ht.params
    rcases pixel_fb t x y item src with ⟨h1, h2⟩ | ⟨p, -, -, h1, h2⟩
    · rw [h1, h2]; exact ⟨i1, i2, i3⟩
    · rw [h1, h2, hp]
      obtain ⟨m, hm, hv', -⟩ := vram_multiple hv
      refine ⟨scatterLE_lt (by omega) i1 _, insertPage_rising i2, fun q hq => ?_⟩
      rcases mem_insertPage.1 hq with rfl | hq
      · have hlt := pixAddr_lt hv x y (i := 0) (by rcases configOk_pb hv with h | h | h <;> omega)
        show pixAddr s.params x y / 2 ^ 12 < s.params.vramBytes / 2 ^ 12
        omega
      · exact i3 q hq
  | ex e _ ih => exact ih
  | regs r _ _ ih => exact ih

theorem RegRun.bounds {s t : State} (h : RegRun s t)
    (hv : configOk s.params.pb s.params.pitch s.params.vramBytes = true)
    (hb : (∀ c ∈ s.fb, c.1 < s.params.vramBytes) ∧ s.dirty.Pairwise (· < ·) ∧
      ∀ p ∈ s.dirty, p < pageCount s.params) :
    (∀ c ∈ t.fb, c.1 < s.params.vramBytes) ∧ t.dirty.Pairwise (· < ·) ∧
      ∀ p ∈ t.dirty, p < pageCount s.params := by
  induction h with
  | refl => exact hb
  | engine ht he ih =>
    have hp := ht.engineFrame.1
    have := he.bounds (by rw [hp]; exact hv) (by rw [hp]; exact ih)
    rwa [hp] at this
  | regs r _ _ ih => exact ih

/-- Executing register bytes keeps the framebuffer and the dirty bits well formed. -/
theorem RegRun.memoryOk {s t : State} (h : RegRun s t) (hv : validParams s.params) (hm : memoryOk s) :
    memoryOk t := by
  refine ⟨h.fb_wf hm.1, ?_⟩
  rw [h.engineFrame.1]
  exact h.bounds hv.2.2 hm.2

end Sys2Proof.Machine
end

