-- ==== Sys2Proof/Laws/Waiting.lean ====
section
/-! SUPPORT. A waiting CPU-fed primitive stays one that can use its next unit (44 R290, R291, R294), and
the count of pixels left stays within 44 R288's bound. -/

namespace Sys2Proof.Machine

open Sys2Proof

/-- What a STEP's advance leaves as it is. -/
theorem advance_keeps (e : Ex) :
    (advance e).1.cls = e.cls ∧ (advance e).1.active = e.active ∧ (advance e).1.feed = e.feed ∧
      (advance e).1.u = e.u ∧ (advance e).1.w = e.w ∧ (advance e).1.cmd = e.cmd := by
  unfold advance
  split
  · unfold advanceLine stepRadial stepBresenham
    dsimp only
    repeat' split
    all_goals simp_all
  all_goals
    first | unfold advanceRect | unfold advanceBlit | unfold advancePat
    dsimp only
    split <;> simp_all

/-- The counters after a STEP's advance. -/
theorem advance_counts (e : Ex) :
    (e.cls = .line → (advance e).1.left = e.left - 1 ∧
      ((advance e).2 = .done ↔ e.left - 1 = 0) ∧ (advance e).2 ≠ .rowEnd) ∧
    (e.cls ≠ .line →
      (0 < e.left - 1 → (advance e).1.left = e.left - 1 ∧ (advance e).1.rows = e.rows ∧ (advance e).2 = .cont) ∧
      (e.left - 1 = 0 → (advance e).1.left = e.w.toNat ∧ (advance e).1.rows = e.rows - 1 ∧
        (advance e).2 = if e.rows - 1 < 0 then .done else .rowEnd)) := by
  refine ⟨fun h => ?_, fun h => ?_⟩
  · unfold advance
    rw [h]
    unfold advanceLine stepRadial stepBresenham
    dsimp only
    by_cases hl : e.left - 1 = 0 <;> (repeat' split) <;> simp_all
  · unfold advance
    cases hc : e.cls
    · exact absurd hc h
    all_goals
      dsimp only
      first | unfold advanceRect | unfold advanceBlit | unfold advancePat
      dsimp only
      refine ⟨fun hl => ?_, fun hl => ?_⟩
      · rw [if_pos hl]; exact ⟨rfl, rfl, rfl⟩
      · rw [if_neg (by omega)]; exact ⟨rfl, rfl, rfl⟩

theorem slot12_le (w : Slot12) : w.toNat ≤ 4095 := by have := w.isLt; omega

/-- The bound on the pixels left is kept by every STEP. -/
theorem advance_left_le {e : Ex} (h : e.left ≤ 4095) : (advance e).1.left ≤ 4095 := by
  obtain ⟨h1, h2⟩ := advance_counts e
  by_cases hc : e.cls = .line
  · rw [(h1 hc).1]; omega
  · rcases Nat.eq_zero_or_pos (e.left - 1) with hz | hz
    · rw [((h2 hc).2 hz).1]; exact slot12_le _
    · rw [((h2 hc).1 hz).1]; omega

/-- A STEP of a waiting primitive that is not its last leaves it waiting. -/
theorem advance_waiting {p : Params} {e : Ex} (h : waitingOk p e) (hd : (advance e).2 ≠ .done) :
    waitingOk p (advance e).1 := by
  obtain ⟨k1, -, k3, k4, k5, -⟩ := advance_keeps e
  obtain ⟨h1, h2⟩ := advance_counts e
  obtain ⟨w1, w2, w3, w4, w5⟩ := h
  unfold waitingOk
  rw [k1, k3, k4, k5]
  refine ⟨w1, w2, w3, ?_⟩
  by_cases hc : e.cls = .line
  · obtain ⟨g1, g2, -⟩ := h1 hc
    have : e.left - 1 ≠ 0 := fun hz => hd (g2.2 hz)
    exact ⟨by omega, fun hn => absurd hc hn⟩
  · obtain ⟨b1, b2⟩ := w5 hc
    rcases Nat.eq_zero_or_pos (e.left - 1) with hz | hz
    · obtain ⟨g1, g2, g3⟩ := (h2 hc).2 hz
      have : ¬ e.rows - 1 < 0 := fun hn => hd (by rw [g3, if_pos hn])
      exact ⟨by omega, fun _ => ⟨by omega, by omega⟩⟩
    · obtain ⟨g1, g2, -⟩ := (h2 hc).1 hz
      exact ⟨by omega, fun _ => ⟨by omega, by omega⟩⟩

theorem engineStep_fst_ex (item : Item) (s : State) : (engineStep item s).1.ex = (advance s.ex).1 := rfl
theorem engineStep_fst_params (item : Item) (s : State) : (engineStep item s).1.params = s.params := by
  simp [engineStep]
theorem engineStep_fst_regs (item : Item) (s : State) : (engineStep item s).1.regs = s.regs := by
  simp [engineStep]

theorem writebackRegs_stageCnt (e : Ex) (r : Regs) : (writebackRegs e r).stageCnt = r.stageCnt := by
  unfold writebackRegs
  cases e.cls <;> rfl

theorem engineOk_finish {s : State} (h : s.ex.left ≤ 4095) (hc : s.regs.stageCnt = 0) : engineOk s.finish :=
  ⟨fun ha => by simp [finish_ex] at ha,
    fun _ => by rw [finish_regs, writebackRegs_stageCnt, hc], by rw [finish_ex]; exact h⟩

theorem engineOk_writeback {s : State} (h : engineOk s) : engineOk s.writeback := by
  unfold engineOk State.writeback at *
  simp only [State.withRegs_ex, State.withRegs_params, State.withRegs_regs, writebackRegs_stageCnt]
  exact h

/-- Delivering items to a waiting primitive with an empty stage (44 R294). -/
theorem feedItems_engineOk (l : List Item) (s : State) (ha : s.ex.active = true) (hw : waitingOk s.params s.ex)
    (hl : s.ex.left ≤ 4095) (hc : s.regs.stageCnt = 0) : engineOk (feedItems l s) := by
  have hu : ∀ {p e}, waitingOk p e → 0 < e.u := by
    rintro p e ⟨-, h, -⟩; omega
  have ok : ∀ s : State, s.ex.active = true → waitingOk s.params s.ex → s.ex.left ≤ 4095 →
      s.regs.stageCnt = 0 → engineOk s := by
    intro s ha hw hl hc
    exact ⟨fun _ => ⟨hw, by rw [hc]; exact hu hw⟩, fun hn => absurd (ha.symm.trans hn) (by simp), hl⟩
  induction l generalizing s with
  | nil => exact engineOk_writeback (ok s ha hw hl hc)
  | cons item l ih =>
    have e1 := engineStep_fst_ex item s
    have e2 := engineStep_fst_params item s
    have e3 := engineStep_fst_regs item s
    have e4 : (engineStep item s).2 = (advance s.ex).2 := rfl
    unfold feedItems
    split
    · rename_i t heq
      rw [heq] at e1 e2 e3
      exact engineOk_finish (by rw [e1]; exact advance_left_le hl) (by rw [e3]; exact hc)
    · rename_i t heq
      rw [heq] at e1 e2 e3 e4
      refine engineOk_writeback (ok t ?_ ?_ ?_ ?_)
      · rw [e1, (advance_keeps s.ex).2.1]; exact ha
      · rw [e1, e2]; exact advance_waiting hw (by rw [← e4]; simp)
      · rw [e1]; exact advance_left_le hl
      · rw [e3]; exact hc
    · rename_i t heq
      rw [heq] at e1 e2 e3 e4
      refine ih t ?_ ?_ ?_ ?_
      · rw [e1, (advance_keeps s.ex).2.1]; exact ha
      · rw [e1, e2]; exact advance_waiting hw (by rw [← e4]; simp)
      · rw [e1]; exact advance_left_le hl
      · rw [e3]; exact hc

/-- A pixel-transfer byte keeps the engine's invariants (42 R230, R231). -/
theorem writePixel_engineOk (b : Byte) (s : State) (h : engineOk s) : engineOk (s.writePixel b) := by
  obtain ⟨h1, h2, h3⟩ := h
  unfold State.writePixel
  split
  · rename_i ha
    obtain ⟨hw, hs⟩ := h1 ha
    dsimp only
    split
    · exact feedItems_engineOk _ _ ha hw h3 rfl
    · rename_i hne
      exact ⟨fun _ => ⟨hw, by show s.regs.stageCnt + 1 < s.ex.u; omega⟩, fun hn => absurd (ha.symm.trans hn) (by simp), h3⟩
  · rename_i ha
    exact ⟨fun hh => absurd hh ha, fun _ => rfl, h3⟩

/-- STEPs keep the bound on the pixels left. -/
theorem runSteps_left_le (n : Nat) (s : State) (h : s.ex.left ≤ 4095) : (runSteps n s).ex.left ≤ 4095 := by
  induction n generalizing s with
  | zero => exact h
  | succ n ih =>
    have e1 := engineStep_fst_ex .none s
    unfold runSteps
    split
    · rename_i heq; rw [heq] at e1; rw [e1]; exact advance_left_le h
    · rename_i heq; rw [heq] at e1; exact ih _ (by rw [e1]; exact advance_left_le h)

/-- The counters, the feed and the unit a command of a class begins with (44 R291, R300, R310, R320,
R330). -/
theorem exAtStart_counts (s : State) (cls : Cls) (c : Half) :
    (s.exAtStart cls c).left = s.regs.majAxisPcnt.toNat ∧
    (cls ≠ .line → (s.exAtStart cls c).w = s.regs.majAxisPcnt ∧
      (s.exAtStart cls c).rows = (s.regs.minAxisPcnt.toNat : Int) - 1) ∧
    (pcData c = true → (s.regs.mixSel = 2#2 → (s.exAtStart cls c).feed = .mono ∧ (s.exAtStart cls c).u = busBytes c) ∧
      (s.regs.mixSel ≠ 2#2 → (s.exAtStart cls c).feed = .colour ∧
        (s.exAtStart cls c).u = max (busBytes c) s.params.pb)) := by
  refine ⟨?_, ?_, ?_⟩
  · unfold State.exAtStart startEx setupClass
    rw [(setupFeed_fields _ _ _).1]
    cases cls <;> rfl
  · intro hc
    unfold State.exAtStart startEx setupClass
    rw [(setupFeed_fields _ _ _).1]
    cases cls
    · exact absurd rfl hc
    all_goals exact ⟨rfl, rfl⟩
  · intro hp
    have hf := setupClass_fields (s.cleared c).regs
      (setupFeed s.params.pb c { (s.cleared c).ex with cls := cls, cmd := c, ms := (s.cleared c).regs.mixSel })
    refine ⟨fun hm => ?_, fun hm => ?_⟩
    all_goals
      unfold State.exAtStart startEx
      refine ⟨hf.2.2.2.1.trans ?_, hf.2.2.2.2.1.trans ?_⟩
      all_goals
        unfold setupFeed
        rw [if_pos hp]
    · exact (congrArg Ex.feed (if_pos hm)).trans rfl
    · exact (congrArg Ex.u (if_pos hm)).trans rfl
    · exact (congrArg Ex.feed (if_neg hm)).trans rfl
    · exact (congrArg Ex.u (if_neg hm)).trans rfl

theorem busBytes_cases (c : Half) : busBytes c = 1 ∨ busBytes c = 2 ∨ busBytes c = 4 := by
  unfold busBytes
  split <;> simp

/-- A CPU-fed command with a nonzero extent begins as a primitive that can use its first unit. -/
theorem exAtStart_waiting {s : State} {cls : Cls} {c : Half} (hp : pcData c = true)
    (hpb : s.params.pb = 1 ∨ s.params.pb = 2 ∨ s.params.pb = 4) (h0 : extentOf cls s.regs ≠ 0) :
    waitingOk s.params { s.exAtStart cls c with active := true } := by
  obtain ⟨c1, c2, c3⟩ := exAtStart_counts s cls c
  obtain ⟨k1, -⟩ := exAtStart_fields s cls c
  have hb := busBytes_cases c
  have hmaj : 0 < s.regs.majAxisPcnt.toNat := by
    rcases Nat.eq_zero_or_pos s.regs.majAxisPcnt.toNat with hz | hz
    · exact absurd (by cases cls <;> simp [extentOf, hz]) h0
    · exact hz
  have hfu : (s.exAtStart cls c).feed ≠ .none ∧
      ((s.exAtStart cls c).u = 1 ∨ (s.exAtStart cls c).u = 2 ∨ (s.exAtStart cls c).u = 4) ∧
      ((s.exAtStart cls c).feed = .colour → s.params.pb ∣ (s.exAtStart cls c).u) := by
    by_cases hm : s.regs.mixSel = 2#2
    · obtain ⟨g1, g2⟩ := (c3 hp).1 hm
      rw [g1, g2]
      exact ⟨by simp, hb, by simp⟩
    · obtain ⟨g1, g2⟩ := (c3 hp).2 hm
      rw [g1, g2]
      refine ⟨by simp, ?_, fun _ => ?_⟩
      · omega
      · rcases hb with hb | hb | hb <;> rcases hpb with hq | hq | hq <;> rw [hb, hq] <;> decide
  refine ⟨hfu.1, hfu.2.1, hfu.2.2, ?_, fun hl => ?_⟩
  · show 0 < (s.exAtStart cls c).left
    omega
  · have hl : cls ≠ .line := by rw [← k1]; exact hl
    obtain ⟨g1, g2⟩ := c2 hl
    refine ⟨?_, ?_⟩
    · show (s.exAtStart cls c).left ≤ (s.exAtStart cls c).w.toNat
      rw [g1, c1]
    · show 0 ≤ (s.exAtStart cls c).rows
      rw [g2]
      have : 0 < s.regs.minAxisPcnt.toNat := by
        rcases Nat.eq_zero_or_pos s.regs.minAxisPcnt.toNat with hz | hz
        · refine absurd ?_ h0
          cases cls
          · exact absurd rfl hl
          all_goals simp [extentOf, hz]
        · exact hz
      omega

/-- A command word keeps the engine's invariants (44 R280). -/
theorem commitCmd_engineOk (c : Half) (s : State) (h : engineOk s)
    (hpb : s.params.pb = 1 ∨ s.params.pb = 2 ∨ s.params.pb = 4) : engineOk (s.commitCmd c) := by
  have hidle : ∀ t : State, t.ex.active = false → t.regs.stageCnt = 0 → t.ex.left ≤ 4095 → engineOk t :=
    fun t a b d => ⟨fun hh => by rw [a] at hh; (cases hh), fun _ => b, d⟩
  rcases hcl : classOf c with _ | cls
  · rw [commitCmd_none hcl]
    exact hidle _ rfl rfl h.2.2
  · rw [commitCmd_some hcl]
    have hleft : (s.exAtStart cls c).left ≤ 4095 := by
      rw [(exAtStart_counts s cls c).1]; exact slot12_le _
    have hact := (exAtStart_fields s cls c).2.2.2.1
    by_cases h0 : extentOf cls s.regs = 0
    · rw [if_pos h0]
      refine hidle _ hact ?_ hleft
      show (zeroExtentRegs _ _).stageCnt = 0
      unfold zeroExtentRegs
      cases (s.exAtStart cls c).cls <;> rfl
    · rw [if_neg h0]
      by_cases hp : pcData c = false
      · rw [if_pos hp]
        have hr := runPrimitive_spec (extentOf cls s.regs) ((s.cleared c).withEx (s.exAtStart cls c))
        refine hidle _ hr.2 ?_ ?_
        · rw [hr.1, writebackRegs_stageCnt]; rfl
        · show (runSteps _ _).ex.left ≤ 4095
          exact runSteps_left_le _ _ hleft
      · rw [if_neg hp]
        have hw := exAtStart_waiting (cls := cls) (c := c) (s := s) (by simpa using hp) hpb h0
        refine ⟨fun _ => ⟨hw, ?_⟩, fun hh => by simp at hh, hleft⟩
        show 0 < (s.exAtStart cls c).u
        rcases hw.2.1 with hu | hu | hu <;>
        · have : (s.exAtStart cls c).u = _ := hu
          omega

/-- A register write that leaves the stage's count keeps the engine's invariants. -/
theorem engineOk_withRegs {s : State} (h : engineOk s) (r : Regs) (hr : r.stageCnt = s.regs.stageCnt) :
    engineOk (s.withRegs r) := by
  unfold engineOk at *
  simp only [State.withRegs_ex, State.withRegs_params, State.withRegs_regs, hr]
  exact h

theorem engineOk_ofLane {s : State} (h : engineOk s) (lane : BitVec 2) (r : Regs)
    (hr : r.stageCnt = s.regs.stageCnt) : engineOk (if unusedLane lane then s else s.withRegs r) := by
  split
  · exact h
  · exact engineOk_withRegs h r hr

theorem writeCmd_engineOk (s : State) (lane : BitVec 2) (b : Byte) (h : engineOk s)
    (hpb : s.params.pb = 1 ∨ s.params.pb = 2 ∨ s.params.pb = 4) : engineOk (s.writeCmd lane b) := by
  unfold State.writeCmd
  split
  · exact engineOk_withRegs h _ rfl
  · exact commitCmd_engineOk _ s h hpb
  · exact h

theorem writeMultifunc_engineOk (s : State) (lane : BitVec 2) (b : Byte) (h : engineOk s) :
    engineOk (s.writeMultifunc lane b) := by
  unfold State.writeMultifunc
  split <;> exact engineOk_withRegs h _ rfl

/-- A byte write, whatever its target, keeps the engine's invariants (42 R200, R201). -/
theorem byteWrite_engineOk (s : State) (t : Target) (b : Byte) (h : engineOk s)
    (hpb : s.params.pb = 1 ∨ s.params.pb = 2 ∨ s.params.pb = 4) : engineOk (s.byteWrite t b) := by
  match t with
  | .reg .curY lane => exact engineOk_ofLane h _ _ rfl
  | .reg .curX lane => exact engineOk_ofLane h _ _ rfl
  | .reg .destyAxstp lane => exact engineOk_ofLane h _ _ rfl
  | .reg .destxDiastp lane => exact engineOk_ofLane h _ _ rfl
  | .reg .errTerm lane => exact engineOk_ofLane h _ _ rfl
  | .reg .majAxisPcnt lane => exact engineOk_ofLane h _ _ rfl
  | .reg .cmd lane => exact writeCmd_engineOk s lane b h hpb
  | .reg .shortStroke lane => exact engineOk_ofLane h _ _ rfl
  | .reg .bkgdColor lane => exact engineOk_withRegs h _ rfl
  | .reg .frgdColor lane => exact engineOk_withRegs h _ rfl
  | .reg .wrtMask lane => exact engineOk_withRegs h _ rfl
  | .reg .rdMask lane => exact engineOk_withRegs h _ rfl
  | .reg .colorCmp lane => exact engineOk_withRegs h _ rfl
  | .reg .bkgdMix lane => exact engineOk_ofLane h _ _ rfl
  | .reg .frgdMix lane => exact engineOk_ofLane h _ _ rfl
  | .reg .multifunc lane => exact writeMultifunc_engineOk s lane b h
  | .pixel _ => exact writePixel_engineOk b s h
  | .none => exact h

theorem writeBytes_engineOk (s : State) (l : List (ByteAddr × Byte)) (h : engineOk s)
    (hpb : s.params.pb = 1 ∨ s.params.pb = 2 ∨ s.params.pb = 4) : engineOk (s.writeBytes l) := by
  induction l generalizing s with
  | nil => exact h
  | cons c l ih =>
    exact ih _ (byteWrite_engineOk s _ _ h hpb) (by rw [(byteWrite_run s _ _).engineFrame.1]; exact hpb)

/-- Executing an entry keeps the engine's invariants (41 R182). -/
theorem executeWord_engineOk (s : State) (e : EntryWord) (h : engineOk s)
    (hpb : s.params.pb = 1 ∨ s.params.pb = 2 ∨ s.params.pb = 4) : engineOk (s.executeWord e) := by
  unfold State.executeWord
  split
  · exact writeBytes_engineOk s _ h hpb
  · exact h

end Sys2Proof.Machine
end

