-- ==== Sys2Proof/Laws/Exec.lean ====
section
/-! SUPPORT. Said once: everything an instruction that completes can do to the state. -/

namespace Sys2Proof.Machine

open Sys2Proof

/-- The six write accesses. -/
def isWriteAccess : Instr → Prop
  | .write8 _ _ => True
  | .write16 _ _ => True
  | .write32 _ _ => True
  | .out8 _ _ => True
  | .out16 _ _ => True
  | .out32 _ _ => True
  | _ => False

/-- An instruction that is neither an access nor a step of an agent nor a Host call: an entry, a register
byte write, a command, a multifunction word or a stage of the pipeline. -/
def isRegisterRow (i : Instr) : Prop :=
  isAccess i = false ∧ i ∉ [Instr.enqueue, .enqueueFull, .dequeueExecute, .wake, .empty, .stop, .waitIdle,
    .reportUtilization, .close] ∧ isConfig i = false

/-- What an instruction that completes does. -/
inductive Change : Instr → State → State → Prop
  /-- Nothing. -/
  | same (i : Instr) (s : State) : Change i s s
  /-- Register bytes are executed. -/
  | bytes {i : Instr} {s t : State} : isRegisterRow i → RegRun s t →
      (engineOk s → (s.params.pb = 1 ∨ s.params.pb = 2 ∨ s.params.pb = 4) → engineOk t) → Change i s t
  /-- A stage of the pipeline runs alone. -/
  | pipe {i : Instr} {s : State} (p : Pipe) : isRegisterRow i → Change i s (s.withPipe p)
  /-- A write access is issued (41 R172). -/
  | access {i : Instr} {s t : State} (sp : BusSpace) (w : Width) (off : BitVec 24) (v : Word) :
      isWriteAccess i → (sp = .port → portEntryWf off = true) → s.pstate = .ready → s.cstate ≠ .stopped →
      s.enqueueFirst (makeEntries sp w off v) = .next t → Change i s t
  /-- A waiting access goes on (40 R151, R152). -/
  | goOn {i : Instr} {s t : State} (held : Bool) (pending : List EntryWord) :
      i = .enqueue ∨ i = .enqueueFull → s.pstate = .waitRoom held pending →
      s.enqueueFirst pending = .next t → Change i s t
  /-- A held access is discarded (40 R152). -/
  | discard {s : State} (pending : List EntryWord) : s.pstate = .waitRoom true pending → s.stop = true →
      Change .enqueueFull s (s.withPState .ready)
  /-- A synchronous read (45 R350). -/
  | status {i : Instr} {s : State} (a : Access) : isAccess i = true → s.pstate = .ready →
      s.cstate ≠ .stopped → a.isSynchronous = true → Change i s (s.readStatus a)
  /-- A drained read is issued (45 R352). -/
  | drained {i : Instr} {s : State} (a : Access) : isAccess i = true → s.pstate = .ready →
      s.cstate ≠ .stopped → a.isSynchronous = false → Change i s (s.readDrained a)
  /-- A waiting read returns (45 R352). -/
  | readReturns {s : State} (a : Access) : s.pstate = .waitDrain a → s.drained = true →
      Change (.drainedRead a) s (s.returnValue a)
  /-- DEQUEUE-EXECUTE (40 R153). -/
  | dequeue {s : State} : s.cstate = .draining → s.queue.rd < s.queue.wr →
      Change .dequeueExecute s (s.executeWord s.headEntry).popEntry
  /-- WAKE (41 R180). -/
  | wake {s : State} : s.cstate = .idle → s.wakePending = true → s.stop = false →
      Change .wake s { s with wakePending := false, cstate := .draining, busy := true }
  /-- STOP (41 R184). -/
  | stop {s : State} : s.cstate = .idle → s.wakePending = true → s.stop = true →
      Change .stop s { s with wakePending := false, cstate := .stopped }
  /-- EMPTY (41 R183). -/
  | empty {s : State} : s.cstate = .draining → s.queue.wr = s.queue.rd →
      Change .empty s { s with cstate := .idle, busy := false }
  /-- WAIT-IDLE (45 R354): a wake and a move of the Host's position, to a wait for Stopped only from one. -/
  | waitIdle {s : State} (b : Bool) (h : HState) : (s.wakePending = true → b = true) →
      (h = .waitStopped → s.hstate = .waitBoth) → h ≠ .waitBoth →
      Change .waitIdle s ((s.withWake b).withHState h)
  /-- REPORT-UTILIZATION (45 R356). -/
  | report {s : State} (o : Outputs) (n : Nat) : s.hstate = .ready →
      Change .reportUtilization s ((s.withOut o).withFreeCtr n)
  /-- CONFIG (70 R414). -/
  | config {s : State} (pb pitch vramBytes : Nat) (h : HState) : h = s.hstate ∨ h = .ready →
      s.configEnabled = true → configOk pb pitch vramBytes = true →
      Change (.config pb pitch vramBytes) s ((s.withHState h).applyConfig pb pitch vramBytes)
  /-- CLOSE, called (10 R38). -/
  | close {s : State} (h : HState) : Change .close s (((s.withStop true).withWake true).withHState h)
  /-- CLOSE, its wait over (10 R38). -/
  | closed {s : State} (h : HState) : s.cstate = .stopped → h = .ready ∨ h = .waitIdle →
      Change .close s (s.withHState h)

theorem issueWrite_change {i : Instr} {s t : State} {sp : BusSpace} {w : Width} {off : BitVec 24} {v : Word}
    (hi : isWriteAccess i) (hp : sp = .port → portEntryWf off = true) (h : s.issueWrite sp w off v = .next t) :
    Change i s t := by
  unfold State.issueWrite State.ifReady at h
  split at h
  · cases h
  · split at h
    · exact .access sp w off v hi hp (by assumption) (by assumption) h
    · cases h

theorem issueRead_change {i : Instr} {s t : State} {a : Access} (hi : isAccess i = true)
    (h : s.issueRead a = .next t) : Change i s t := by
  unfold State.issueRead State.ifReady at h
  split at h
  · cases h
  · split at h
    · injection h with h
      subst h
      split
      · exact .status a hi (by assumption) (by assumption) (by assumption)
      · rename_i hs
        exact .drained a hi (by assumption) (by assumption) (by simpa using hs)
    · cases h

theorem portEntryWf_of_port (p : BitVec 16) : portEntryWf (p.setWidth 24) = true := by
  unfold portEntryWf
  rw [beq_iff_eq]
  apply BitVec.eq_of_getLsbD_eq
  intro k hk
  rw [BitVec.getLsbD_extractLsb', BitVec.getLsbD_setWidth]
  simp only [BitVec.getLsbD_zero]
  have : p.getLsbD (16 + k) = false := BitVec.getLsbD_of_ge _ _ (by omega)
  rw [this]
  simp

theorem registerRow_bytes {i : Instr} {s t : State} (hi : isRegisterRow i) (hr : RegRun s t)
    (he : engineOk s → (s.params.pb = 1 ∨ s.params.pb = 2 ∨ s.params.pb = 4) → engineOk t) {r : Result}
    (hx : r = .next t) {u : State} (h : r = .next u) : Change i s u := by
  rw [hx] at h
  injection h with h
  exact h ▸ .bytes hi hr he

theorem notRow {i : Instr} (h1 : isAccess i = false) (h2 : isConfig i = false)
    (h3 : i ∉ [Instr.enqueue, .enqueueFull, .dequeueExecute, .wake, .empty, .stop, .waitIdle,
      .reportUtilization, .close]) : isRegisterRow i := ⟨h1, h3, h2⟩

theorem commitMf_run (s : State) (v : Half) : RegRun s (s.commitMf v) := .one _ _ rfl

theorem commitMf_engineOk (s : State) (v : Half) (h : engineOk s) : engineOk (s.commitMf v) :=
  engineOk_withRegs h _ rfl

theorem mf_bytes {i : Instr} {s u : State} (hi : isRegisterRow i) (v : Half)
    (h : Host.Outcome.next (s.commitMf v) = (.next u : Result)) : Change i s u :=
  registerRow_bytes hi (commitMf_run s v) (fun he _ => commitMf_engineOk s v he) rfl h

/-- Everything an instruction that completes can do. -/
theorem exec_change {i : Instr} {s t : State} (h : exec i s = .next t) : Change i s t := by
  cases i
  case entryInvalid => exact (Host.Outcome.next.inj h) ▸ .same _ _
  case entryWriteByte | entryWriteWord | entryWriteDword | entryOutByte | entryOutWord | entryOutDword =>
    exact registerRow_bytes (notRow rfl rfl (by simp)) (writeBytes_run s _)
      (writeBytes_engineOk s _) rfl h
  case write8 | write16 | write32 => exact issueWrite_change trivial (by simp) h
  case out8 | out16 | out32 => exact issueWrite_change trivial (fun _ => portEntryWf_of_port _) h
  case read8 | read16 | read32 | in8 | in16 | in32 => exact issueRead_change rfl h
  case rCurY | rCurX | rDestyAxstp | rDestxDiastp | rErrTerm | rMajAxisPcnt | rGpStat | rShortStroke | rBkgdColor |
      rFrgdColor | rWrtMask | rRdMask | rColorCmp | rBkgdMix | rFrgdMix | rMultifunc | rPixTrans |
      rPixTransWindow | rNone =>
    exact issueRead_change rfl h
  case wCurY sp lane b => exact registerRow_bytes (notRow rfl rfl (by simp)) (byteWrite_run s (.reg .curY lane) b) (byteWrite_engineOk s (.reg .curY lane) b) rfl h
  case wCurX sp lane b => exact registerRow_bytes (notRow rfl rfl (by simp)) (byteWrite_run s (.reg .curX lane) b) (byteWrite_engineOk s (.reg .curX lane) b) rfl h
  case wDestyAxstp sp lane b => exact registerRow_bytes (notRow rfl rfl (by simp)) (byteWrite_run s (.reg .destyAxstp lane) b) (byteWrite_engineOk s (.reg .destyAxstp lane) b) rfl h
  case wDestxDiastp sp lane b => exact registerRow_bytes (notRow rfl rfl (by simp)) (byteWrite_run s (.reg .destxDiastp lane) b) (byteWrite_engineOk s (.reg .destxDiastp lane) b) rfl h
  case wErrTerm sp lane b => exact registerRow_bytes (notRow rfl rfl (by simp)) (byteWrite_run s (.reg .errTerm lane) b) (byteWrite_engineOk s (.reg .errTerm lane) b) rfl h
  case wMajAxisPcnt sp lane b => exact registerRow_bytes (notRow rfl rfl (by simp)) (byteWrite_run s (.reg .majAxisPcnt lane) b) (byteWrite_engineOk s (.reg .majAxisPcnt lane) b) rfl h
  case wCmd sp lane b => exact registerRow_bytes (notRow rfl rfl (by simp)) (byteWrite_run s (.reg .cmd lane) b) (byteWrite_engineOk s (.reg .cmd lane) b) rfl h
  case wShortStroke sp lane b => exact registerRow_bytes (notRow rfl rfl (by simp)) (byteWrite_run s (.reg .shortStroke lane) b) (byteWrite_engineOk s (.reg .shortStroke lane) b) rfl h
  case wBkgdColor sp lane b => exact registerRow_bytes (notRow rfl rfl (by simp)) (byteWrite_run s (.reg .bkgdColor lane) b) (byteWrite_engineOk s (.reg .bkgdColor lane) b) rfl h
  case wFrgdColor sp lane b => exact registerRow_bytes (notRow rfl rfl (by simp)) (byteWrite_run s (.reg .frgdColor lane) b) (byteWrite_engineOk s (.reg .frgdColor lane) b) rfl h
  case wWrtMask sp lane b => exact registerRow_bytes (notRow rfl rfl (by simp)) (byteWrite_run s (.reg .wrtMask lane) b) (byteWrite_engineOk s (.reg .wrtMask lane) b) rfl h
  case wRdMask sp lane b => exact registerRow_bytes (notRow rfl rfl (by simp)) (byteWrite_run s (.reg .rdMask lane) b) (byteWrite_engineOk s (.reg .rdMask lane) b) rfl h
  case wColorCmp sp lane b => exact registerRow_bytes (notRow rfl rfl (by simp)) (byteWrite_run s (.reg .colorCmp lane) b) (byteWrite_engineOk s (.reg .colorCmp lane) b) rfl h
  case wBkgdMix sp lane b => exact registerRow_bytes (notRow rfl rfl (by simp)) (byteWrite_run s (.reg .bkgdMix lane) b) (byteWrite_engineOk s (.reg .bkgdMix lane) b) rfl h
  case wFrgdMix sp lane b => exact registerRow_bytes (notRow rfl rfl (by simp)) (byteWrite_run s (.reg .frgdMix lane) b) (byteWrite_engineOk s (.reg .frgdMix lane) b) rfl h
  case wMultifuncCntl sp lane b => exact registerRow_bytes (notRow rfl rfl (by simp)) (byteWrite_run s (.reg .multifunc lane) b) (byteWrite_engineOk s (.reg .multifunc lane) b) rfl h
  case wPixTrans sp lane b => exact registerRow_bytes (notRow rfl rfl (by simp)) (byteWrite_run s (.pixel lane) b) (byteWrite_engineOk s (.pixel lane) b) rfl h
  case wPixTransWindow o b => exact registerRow_bytes (notRow rfl rfl (by simp)) (byteWrite_run s (.pixel 0#2) b) (byteWrite_engineOk s (.pixel 0#2) b) rfl h
  case wNone a b => exact registerRow_bytes (notRow rfl rfl (by simp)) (byteWrite_run s _ b) (byteWrite_engineOk s _ b) rfl h
  case cmdNop | cmdLine | cmdRect | cmdRsv3 | cmdRsv4 | cmdRsv5 | cmdBlit | cmdPat | cmdLineBresenham | cmdLineRadial =>
    exact registerRow_bytes (notRow rfl rfl (by simp)) (.engine .refl (commitCmd_run _ s)) (commitCmd_engineOk _ s) rfl h
  case mfMinAxisPcnt data => exact mf_bytes (notRow rfl rfl (by simp)) (0#4 ++ data) h
  case mfScissorsT data => exact mf_bytes (notRow rfl rfl (by simp)) (1#4 ++ data) h
  case mfScissorsL data => exact mf_bytes (notRow rfl rfl (by simp)) (2#4 ++ data) h
  case mfScissorsB data => exact mf_bytes (notRow rfl rfl (by simp)) (3#4 ++ data) h
  case mfScissorsR data => exact mf_bytes (notRow rfl rfl (by simp)) (4#4 ++ data) h
  case mfSlot5 data => exact mf_bytes (notRow rfl rfl (by simp)) (5#4 ++ data) h
  case mfSlot6 data => exact mf_bytes (notRow rfl rfl (by simp)) (6#4 ++ data) h
  case mfSlot7 data => exact mf_bytes (notRow rfl rfl (by simp)) (7#4 ++ data) h
  case mfSlot8 data => exact mf_bytes (notRow rfl rfl (by simp)) (8#4 ++ data) h
  case mfSlot9 data => exact mf_bytes (notRow rfl rfl (by simp)) (9#4 ++ data) h
  case mfPixCntl data => exact mf_bytes (notRow rfl rfl (by simp)) (10#4 ++ data) h
  case mfSlotb data => exact mf_bytes (notRow rfl rfl (by simp)) (11#4 ++ data) h
  case mfSlotc data => exact mf_bytes (notRow rfl rfl (by simp)) (12#4 ++ data) h
  case mfSlotd data => exact mf_bytes (notRow rfl rfl (by simp)) (13#4 ++ data) h
  case mfMultMisc data => exact mf_bytes (notRow rfl rfl (by simp)) (14#4 ++ data) h
  case mfReadSel data => exact mf_bytes (notRow rfl rfl (by simp)) (15#4 ++ data) h
  case mixNotD | mixZero | mixOne | mixD | mixNotS | mixSXorD | mixSXnorD | mixS | mixSNandD | mixNotSOrD | mixSOrNotD |
      mixSOrD | mixSAndD | mixSAndNotD | mixNotSAndD | mixSNorD | srcBkgdColor | srcFrgdColor | srcCpuData |
      srcDisplayMemory | mixselAlwaysFg | mixselReservedAs0 | mixselCpuData | mixselDisplayMemory | cmpAlways |
      cmpNever | cmpNe | cmpEq =>
    exact (Host.Outcome.next.inj h) ▸ .pipe _ (notRow rfl rfl (by simp))
  case enqueue =>
    replace h : execEnqueue s = .next t := h
    unfold execEnqueue at h
    split at h
    · split at h
      · exact (Host.Outcome.next.inj h) ▸ .same _ _
      · exact .goOn _ _ (.inl rfl) (by assumption) h
    all_goals exact (Host.Outcome.next.inj h) ▸ .same _ _
  case enqueueFull =>
    replace h : execEnqueueFull s = .next t := h
    unfold execEnqueueFull at h
    split at h
    · split at h
      · rename_i hp hh
        split at h
        · exact (Host.Outcome.next.inj h) ▸ .discard _ (by rw [hp, hh]) (by assumption)
        · split at h
          · exact (Host.Outcome.next.inj h) ▸ .same _ _
          · exact .goOn _ _ (.inr rfl) hp h
      · split at h
        · exact .goOn _ _ (.inr rfl) (by assumption) h
        · exact (Host.Outcome.next.inj h) ▸ .same _ _
    all_goals exact (Host.Outcome.next.inj h) ▸ .same _ _
  case dequeueExecute =>
    rcases execDequeueExecute_cases (s := s) with ⟨hx, -⟩ | ⟨h1, -, ⟨hx, -⟩ | ⟨hx, h2, -⟩⟩
    · exact (Host.Outcome.next.inj (hx.symm.trans h)) ▸ .same _ _
    · exact absurd (hx.symm.trans h) (by simp)
    · exact (Host.Outcome.next.inj (hx.symm.trans h)) ▸ .dequeue h1 h2
  case wake =>
    rcases execWake_next h with rfl | ⟨h1, h2, h3, rfl⟩
    · exact .same _ _
    · exact .wake h1 h2 h3
  case empty =>
    rcases execEmpty_next h with rfl | ⟨h1, h2, rfl⟩
    · exact .same _ _
    · exact .empty h1 h2
  case stop =>
    rcases execStop_next h with rfl | ⟨h1, h2, h3, rfl⟩
    · exact .same _ _
    · exact .stop h1 h2 h3
  case statusRead a =>
    replace h : execStatusRead a s = .next t := h
    unfold execStatusRead State.ifReady at h
    split at h
    · split at h
      · cases h
      · split at h
        · exact (Host.Outcome.next.inj h) ▸ .status a rfl (by assumption) (by assumption) (by assumption)
        · cases h
    · cases h
  case drainedRead a =>
    replace h : execDrainedRead a s = .next t := h
    unfold execDrainedRead State.ifReady at h
    split at h
    · rename_i hw
      split at h
      · exact (Host.Outcome.next.inj h) ▸ .readReturns a hw (by assumption)
      · exact (Host.Outcome.next.inj h) ▸ .same _ _
    · split at h
      · cases h
      · rename_i hs
        split at h
        · cases h
        · split at h
          · exact (Host.Outcome.next.inj h) ▸ .drained a rfl (by assumption) (by assumption) (by simpa using hs)
          · cases h
  case waitIdle =>
    replace h : execWaitIdle s = .next t := h
    unfold execWaitIdle at h
    split at h
    · rename_i hr
      dsimp only at h
      have hb : s.wakePending = true → (s.wakePending || decide (0 < s.occupancy)) = true := by
        intro h; simp [h]
      split at h
      · have : (s.withWake (s.wakePending || decide (0 < s.occupancy))) =
            (s.withWake (s.wakePending || decide (0 < s.occupancy))).withHState .ready := by
          rw [← hr]; rfl
        rw [← Host.Outcome.next.inj h, this]
        exact .waitIdle _ _ hb (by simp) (by simp)
      · exact (Host.Outcome.next.inj h) ▸ .waitIdle _ _ hb (by simp) (by simp)
    · split at h
      · exact (Host.Outcome.next.inj h) ▸ .waitIdle s.wakePending .ready id (by simp) (by simp)
      · exact (Host.Outcome.next.inj h) ▸ .same _ _
    · rename_i hr
      split at h
      · exact (Host.Outcome.next.inj h) ▸ .waitIdle s.wakePending .waitStopped id (fun _ => hr) (by simp)
      · exact (Host.Outcome.next.inj h) ▸ .same _ _
    · exact (Host.Outcome.next.inj h) ▸ .same _ _
  case reportUtilization =>
    replace h : execReportUtilization s = .next t := h
    unfold execReportUtilization at h
    split at h
    · exact (Host.Outcome.next.inj h) ▸ .report _ _ (by assumption)
    all_goals exact (Host.Outcome.next.inj h) ▸ .same _ _
  case config pb pitch vramBytes =>
    replace h : execConfig pb pitch vramBytes s = .next t := h
    unfold execConfig at h
    split at h
    · exact (Host.Outcome.next.inj h) ▸ .same _ _
    · exact (Host.Outcome.next.inj h) ▸ .same _ _
    all_goals
      split at h
      · cases h
      · split at h
        · cases h
        · rename_i h1 h2
          first
          | exact (Host.Outcome.next.inj h) ▸ .config pb pitch vramBytes .ready (.inr rfl) (by simpa using h1) (by simpa using h2)
          | exact (Host.Outcome.next.inj h) ▸ .config pb pitch vramBytes s.hstate (.inl rfl) (by simpa using h1) (by simpa using h2)
  case close =>
    replace h : execClose s = .next t := h
    unfold execClose at h
    split at h
    · exact (Host.Outcome.next.inj h) ▸ .close _
    · exact (Host.Outcome.next.inj h) ▸ .close _
    · split at h
      · exact (Host.Outcome.next.inj h) ▸ .closed .ready (by assumption) (.inl rfl)
      · exact (Host.Outcome.next.inj h) ▸ .same _ _
    · split at h
      · exact (Host.Outcome.next.inj h) ▸ .closed .waitIdle (by assumption) (.inr rfl)
      · exact (Host.Outcome.next.inj h) ▸ .same _ _

/-- The first ENQUEUE of an access, when it completes. -/
theorem enqueueFirst_next {s t : State} {pending : List EntryWord} (h : s.enqueueFirst pending = .next t) :
   (t = s.withPState .ready ∧ pending = []) ∨ ∃ e rest, pending = e :: rest ∧
     ((t = { s with wakePending := true, pstate := .waitRoom true pending } ∧ s.queue.wr - s.queue.rd = s.params.qcap) ∨
      (s.queue.wr - s.queue.rd ≠ s.params.qcap ∧ s.queue.rd ≤ s.queue.wr + 1 ∧ s.queue.wr + 1 - s.queue.rd ≤ s.params.qcap ∧
        t = s.enqueued e (if rest = [] then .ready else .waitRoom false rest))) := by
  rcases s.enqueueFirst_cases pending with ⟨h1, h2⟩ | ⟨e, rest, h1, ⟨h2, h3⟩ | ⟨-, -, h3⟩ | ⟨h2, h3, h4, h5⟩⟩
  · left; rw [h2] at h; cases h; exact ⟨rfl, h1⟩
  · right; rw [h3] at h; cases h; exact ⟨_, _, h1, .inl ⟨rfl, h2⟩⟩
  · rw [h3] at h; cases h
  · right; rw [h5] at h; cases h; exact ⟨_, _, h1, .inr ⟨h2, h3, h4, rfl⟩⟩


/-- CONFIG's effects as one update, and free contents when the size changes. -/
theorem applyConfig_form (s : State) (pb pitch vb : Nat) : ∃ u : State,
    s.applyConfig pb pitch vb = (if vb = s.params.vramBytes then u else u.freshVram) ∧
    u = { s with params := { s.params with pb := pb, pitch := pitch, vramBytes := vb },
                 ex := { s.ex with active := false },
                 regs := { s.regs with stageCnt := if s.ex.active then 0 else s.regs.stageCnt } } := by
  refine ⟨_, ?_, rfl⟩
  unfold State.applyConfig
  dsimp only
  by_cases ha : s.ex.active = true
  · simp only [ha, if_true]; rfl
  · have ha' : s.ex.active = false := by simpa using ha
    have : ({ s.ex with active := false } : Ex) = s.ex := by rw [← ha']
    simp only [ha', this]; rfl

/-- Executing a packed entry is executing its instruction. -/
theorem executeWord_decode {s : State} {e : EntryWord} {i : Instr} (hd : decode .entry e = .ok i) : exec i s = .next (s.executeWord e) := by
  have hd : decodeEntry e = .ok i := hd
  unfold decodeEntry at hd
  unfold State.executeWord kindOf
  have hx : ∀ n : Nat, n < 256 → ((entryType e).toNat = n ↔ entryType e = BitVec.ofNat 8 n) := by
    intro n hn
    constructor
    · intro h; apply BitVec.eq_of_toNat_eq; rw [h]; simp; omega
    · intro h; rw [h]; simp; omega
  split at hd
  all_goals first
    | (rename_i h; rw [hx _ (by decide)] at h; injection hd with hd; subst hd; rw [h]; rfl)
    | cases hd

/-- Everything a step that completes can be. -/
theorem step_next {s t : State} (h : step s = .next t) :
    (∃ i s', (s' = s ∨ ∃ r, s' = s.withInputs r) ∧ exec i s' = .next t) ∨
    (t = s ∨ ∃ r, t = s.withInputs r) ∨
    (∃ r a b, t = (s.withInputs r).hostWrite a b) ∨ (∃ r a, t = (s.withInputs r).hostRead a) ∨
    (∃ r a, t = (s.withInputs r).clearDirty a) := by
  unfold step State.nextAction at h
  have own : (match s.ownAction with | .run i t => exec i t | .goto t => .next t | .refuse r => .refused r) = Host.Outcome.next t →
     (∃ i s', (s' = s ∨ ∃ r, s' = s.withInputs r) ∧ exec i s' = .next t) ∨ (t = s ∨ ∃ r, t = s.withInputs r) := by
    intro h
    unfold State.ownAction at h
    split at h
    · rename_i i t' hx; split at hx
      · cases hx; exact .inl ⟨_, _, .inl rfl, h⟩
      · cases hx
    · rename_i t' hx; split at hx
      · cases hx
      · cases hx; cases h; exact .inr (.inl rfl)
    · cases h
  cases hi : s.inputs with
  | nil => rw [hi] at h; rcases own h with h | h; exact .inl h; exact .inr (.inl h)
  | cons inp rest =>
    rw [hi] at h
    dsimp only at h
    unfold State.inputAction at h
    cases inp with
    | hostWrite a b => cases h; exact .inr (.inr (.inl ⟨_, _, _, rfl⟩))
    | hostRead a => cases h; exact .inr (.inr (.inr (.inl ⟨_, _, rfl⟩)))
    | clearDirty a => cases h; exact .inr (.inr (.inr (.inr ⟨_, _, rfl⟩)))
    | word sp w =>
      dsimp only at h
      cases hd : decode sp w with
      | ok i =>
        rw [hd] at h; dsimp only at h
        by_cases hb : s.heldBack i = true
        · rw [if_pos hb] at h; rcases own h with h | h; exact .inl h; exact .inr (.inl h)
        · rw [if_neg hb] at h; exact .inl ⟨_, _, .inr ⟨_, rfl⟩, h⟩
      | error e =>
        rw [hd] at h
        cases e <;> first | (cases h; done) | (cases h; exact .inr (.inl (.inr ⟨_, rfl⟩)))

end Sys2Proof.Machine
end

