-- ==== Sys2Proof/Laws/Access.lean ====
section
/-! SUPPORT. What one access makes and answers: the entries of a write, the value of a read, and the status
word (41 R171 to R176, 42 R240, 45 R350 to R352). -/

namespace Sys2Proof.Machine

open Sys2Proof

/-- The slot of a cursor, as the spec writes it (10 R31). -/
theorem ring_and {p : Params} (h : validParams p) (n : Nat) : n &&& (p.qcap - 1) = n % p.qcap := by
  obtain ⟨⟨k, hk⟩, -, -⟩ := h
  rw [hk]; exact Nat.and_two_pow_sub_one_eq_mod n k

/-- The entries of an access are entries the Producer may make (30 R102). -/
theorem makeEntries_ok {sp : BusSpace} {w : Width} {off : BitVec 24} {v : Word} (hp : sp = .port → portEntryWf off = true) :
    ∀ e ∈ makeEntries sp w off v, entryOk e := by
  have kk : ∀ sp w, kindOf (kindCode sp w) = some (sp, w) := by intro sp w; cases sp <;> cases w <;> rfl
  unfold makeEntries
  split
  · intro e he
    obtain ⟨k, -, rfl⟩ := List.mem_map.1 he
    unfold entryOk
    rw [entryType_pack, kk]
    simp only [entryPayload_pack, entryOffset_pack]
    refine ⟨?_, fun h => ?_⟩
    · apply BitVec.eq_of_getLsbD_eq
      intro j hj
      rw [BitVec.getLsbD_and, BitVec.getLsbD_not, pixMask, pixMask_bit_eq _ _ hj]
      by_cases hj8 : j < 8
      · simp [Width.bytes, hj8]
      · have : (byteOf v k).getLsbD j = false := BitVec.getLsbD_of_ge _ _ (by omega)
        simp [BitVec.getLsbD_setWidth, this]
    · subst h; exact portEntryWf_of_port _
  · intro e he
    rw [List.mem_singleton] at he
    subst he
    unfold entryOk
    rw [entryType_pack, kk]
    simp only [entryPayload_pack, entryOffset_pack]
    refine ⟨?_, hp⟩
    unfold truncValue
    apply BitVec.eq_of_getLsbD_eq
    intro j hj
    simp only [BitVec.getLsbD_and, BitVec.getLsbD_not]
    cases (pixMask w.bytes).getLsbD j <;> simp

/-- An access has one to four entries (41 R171). -/
theorem makeEntries_len (sp : BusSpace) (w : Width) (off : BitVec 24) (v : Word) :
   makeEntries sp w off v ≠ [] ∧ (makeEntries sp w off v).length ≤ 4 := by
  unfold makeEntries
  split
  · cases w <;> simp [Width.lanes]
  · simp

/-- The value of `n` bytes. -/
theorem gatherLE_lt (f : Nat → Byte) (n : Nat) (hn : n ≤ 4) : (gatherLE f n).toNat < 2 ^ (8 * n) := by
  rcases Nat.lt_or_ge n 4 with h | h
  · have h32 : 8 * n ≤ 32 := by omega
    have : gatherLE f n = ((gatherLE f n).setWidth (8 * n)).setWidth 32 := by
      apply BitVec.eq_of_getLsbD_eq
      intro k hk
      rw [BitVec.getLsbD_setWidth, BitVec.getLsbD_setWidth]
      by_cases hk8 : k < 8 * n
      · simp [hk, hk8]
      · rw [gatherLE_bit _ _ hk]; simp [hk8]
    rw [this, BitVec.toNat_setWidth]
    exact Nat.lt_of_le_of_lt (Nat.mod_le _ _) ((gatherLE f n).setWidth (8*n)).isLt
  · have : n = 4 := by omega
    subst this; exact (gatherLE f 4).isLt

/-- GP_STAT with its conditions as propositions (45 R351). -/
theorem gpStat_eq (s : State) : s.gpStat = ((if s.occupancy = s.params.qcap then 0x00FF#16 else 0#16) ||| (if s.busy = true ∨ 0 < s.occupancy then 0x0200#16 else 0#16)) := by
  have hf : s.full = decide (s.occupancy = s.params.qcap) := by
    rw [Bool.eq_iff_iff, s.full_iff]; exact ⟨fun h => decide_eq_true h, fun h => of_decide_eq_true h⟩
  unfold State.gpStat
  simp [hf]

theorem lanes_len (w : Width) : w.lanes = List.range w.bytes := by cases w <;> rfl

/-- The bytes of a read value (45 R350). -/
theorem readValue_spec (s : State) (a : Access) : (∀ k < a.width.bytes, byteOf (s.readValue a) k = s.readByte (decodeAddr (byteAddrAt a.space a.addr k))) ∧ (s.readValue a).toNat < 2 ^ (8 * a.width.bytes) :=
  ⟨fun _ hk => byteOf_gatherLE _ hk (by cases a.width <;> decide), gatherLE_lt _ _ (by cases a.width <;> decide)⟩

/-- A synchronous read by its bytes (30 R115). -/
theorem sync_iff (a : Access) : a.isSynchronous = true ↔ ∀ k < a.width.bytes, ∀ r lane, decodeAddr (byteAddrAt a.space a.addr k) = .reg r lane → r = .cmd := by
  unfold Access.isSynchronous Access.bytes
  rw [lanes_len]
  simp only [List.all_eq_true, List.mem_map, List.mem_range]
  constructor
  · intro h k hk r lane hd
    have := h _ ⟨k, hk, rfl⟩
    rw [hd] at this
    cases r <;> first | rfl | (cases this; done)
  · rintro h _ ⟨k, hk, rfl⟩
    cases hd : decodeAddr (byteAddrAt a.space a.addr k) with
    | reg r lane => have := h k hk r lane hd; subst this; rfl
    | pixel => rfl
    | none => rfl

/-- A read issued from Ready before close. -/
theorem issueRead_ready {s : State} (hp : s.pstate = .ready) (hc : s.cstate ≠ .stopped) (a : Access) :
   s.issueRead a = .next (if a.isSynchronous then s.readStatus a else s.readDrained a) := by
  unfold State.issueRead State.ifReady; rw [if_neg hc, if_pos hp]

theorem returnValue_ready {s : State} (hp : s.pstate = .ready) (a : Access) : s.returnValue a = { s with out := { s.out with busData := some (s.readValue a) } } := by
  unfold State.returnValue State.withPState State.withOut; rw [← hp]

theorem readStatus_ready {s : State} (hp : s.pstate = .ready) (a : Access) : s.readStatus a = { s with
          wakePending := s.wakePending || decide (s.cstate = .idle)
          out := { s.out with busData := some (s.readValue a) } } := by
  unfold State.readStatus State.returnValue State.withPState State.withOut
  rw [← hp]; rfl

theorem readValue_w1 (s : State) (sp : BusSpace) (o : BitVec 24) : s.readValue ⟨sp, o, .w1⟩ = (s.readByte (decodeAddr (byteAddrAt sp o 0))).setWidth 32 := by
  unfold State.readValue
  show gatherLE _ 1 = _
  simp [gatherLE]

/-- The one-byte read of a lane addresses that lane (30 R110). -/
theorem decode_byteAccess (r : RegName) (sp : BusSpace) (lane : BitVec 2) :
   ∃ o, byteAccess (laneAddr sp (r.port lane)) = ⟨sp, o, .w1⟩ ∧ decodeAddr (byteAddrAt sp o 0) = .reg r lane := by
  revert r sp lane
  intro r sp lane
  cases sp with
  | mapped =>
    refine ⟨_, rfl, ?_⟩
    cases r <;> revert lane <;> decide
  | port =>
    refine ⟨_, rfl, ?_⟩
    cases r <;> revert lane <;> decide

theorem startsPixel_iff (sp : BusSpace) (off : BitVec 24) : startsPixel sp off = true ↔ ∃ lane, decodeAddr (byteAddrAt sp off 0) = .pixel lane := by
  unfold startsPixel
  cases h : decodeAddr (byteAddrAt sp off 0) <;> simp [h]

theorem truncValue_eq (w : Width) (v : Word) : truncValue w v = BitVec.ofNat 32 (v.toNat % 2 ^ (8 * w.bytes)) := by
  apply BitVec.eq_of_getLsbD_eq
  intro k hk
  unfold truncValue
  rw [BitVec.getLsbD_and, pixMask, pixMask_bit_eq _ _ hk, BitVec.getLsbD_ofNat, Nat.testBit_mod_two_pow]
  simp [hk, BitVec.testBit_toNat, Bool.and_comm]

end Sys2Proof.Machine
end

