-- ==== Sys2Proof/Laws/Bytes.lean ====
section
/-! SUPPORT. Register bytes: the bits of a merged byte and of the masked values (42 R203, R204, R206), and
byte writes as instructions (42 R200, 41 R182). -/

namespace Sys2Proof.Machine

open Sys2Proof

/-- The bits of a merged value (42 R203). -/
theorem merge_bit {n : Nat} (v : BitVec n) (lane : BitVec 2) (b : Byte) (k : Nat) (hk : k < n) :
   (mergeByte v lane b).getLsbD k = if k / 8 = lane.toNat then b.getLsbD (k % 8) else v.getLsbD k := by
  unfold mergeByte
  simp only [BitVec.getLsbD_or, BitVec.getLsbD_and, BitVec.getLsbD_not, BitVec.getLsbD_shiftLeft, BitVec.getLsbD_setWidth, hk]
  have hff : ∀ j, (0xFF#8).getLsbD j = decide (j < 8) := by
    intro j
    by_cases h : j < 8
    · interval_cases j <;> rfl
    · rw [BitVec.getLsbD_of_ge _ _ (by omega)]; simp [h]
  rw [hff]
  by_cases h1 : k < 8 * lane.toNat
  · have : ¬ k / 8 = lane.toNat := by omega
    simp [h1, this]
  · by_cases h2 : k - 8 * lane.toNat < 8
    · have : k / 8 = lane.toNat := by omega
      have e : k % 8 = k - 8 * lane.toNat := by omega
      have hn : k - 8 * lane.toNat < n := by omega
      rw [if_pos this, e]
      simp only [h1, h2, hn, decide_true, decide_false, Bool.not_true, Bool.not_false, Bool.true_and, Bool.and_false, Bool.false_or, Bool.and_true]
    · have : ¬ k / 8 = lane.toNat := by omega
      rw [if_neg this, BitVec.getLsbD_of_ge b _ (by omega)]
      simp [h1, h2]

/-- The bits of a 12-bit value (42 R204). -/
theorem zext12_bit (r : Half) (k : Nat) : (zext12 r).getLsbD k = (decide (k < 12) && r.getLsbD k) := by
  unfold zext12
  simp only [BitVec.getLsbD_setWidth]
  by_cases h : k < 12
  · have : k < 16 := by omega
    simp [h, this]
  · simp [h]

/-- The bits of a sign-extended 14-bit value (42 R206). -/
theorem sext14_bit (r : Half) (k : Nat) (hk : k < 16) : (sext14 r).getLsbD k = r.getLsbD (min k 13) := by
  unfold sext14
  rw [BitVec.getLsbD_signExtend]
  by_cases h : k < 14
  · have : min k 13 = k := by omega
    rw [this]; simp [h, hk, BitVec.getLsbD_setWidth]
  · have : min k 13 = 13 := by omega
    rw [this]; simp [h, hk, BitVec.msb_eq_getLsbD_last, BitVec.getLsbD_setWidth]

/-- The instruction a byte write is does that byte write. -/
theorem exec_byteWrite (s : State) (a : ByteAddr) (b : Byte) : exec (byteWriteInstr a b) s = .next (s.byteWrite (decodeAddr a) b) := by
  unfold byteWriteInstr
  cases hd : decodeAddr a with
  | reg r lane => cases r <;> rfl
  | pixel lane =>
    cases a with
    | port p => rfl
    | mapped o => dsimp only; split <;> rfl
  | none =>
    show Host.Outcome.next (s.byteWrite (decodeAddr a) b) = _
    rw [hd]

/-- Byte writes one after another. -/
theorem execAll_bytes (s : State) (l : List (ByteAddr × Byte)) : execAll (l.map (fun c => byteWriteInstr c.1 c.2)) s = .next (s.writeBytes l) := by
  induction l generalizing s with
  | nil => rfl
  | cons c l ih =>
    simp only [List.map_cons, execAll, exec_byteWrite]
    exact ih _

end Sys2Proof.Machine
end

