-- ==== Sys2Proof/Laws/Lines.lean ====
section
/-! SUPPORT. A Line: where it starts and what it leaves (44 R300 to R304). -/

namespace Sys2Proof.Machine

open Sys2Proof

/-- The snapshot of a Line (44 R300). -/
theorem line_start (s : State) (c : Half) : (s.exAtStart .line c).x = s.regs.curX ∧ (s.exAtStart .line c).y = s.regs.curY ∧ (s.exAtStart .line c).err = s.regs.errTerm ∧
   (s.exAtStart .line c).maj = s.regs.majAxisPcnt ∧ (s.exAtStart .line c).ax = s.regs.destyAxstp ∧ (s.exAtStart .line c).dia = s.regs.destxDiastp := by
  unfold State.exAtStart startEx setupClass; rw [(setupFeed_fields _ _ _).1]; exact ⟨rfl, rfl, rfl, rfl, rfl, rfl⟩

/-- A Line without feed, or of no pixels, in terms of its STEPs (44 R285, R304). -/
theorem line_ex {s : State} {c : Half} (hc : classOf c = some .line) (hp : c.getLsbD 8 = false ∨ s.regs.majAxisPcnt = 0#12) :
    ∃ (fb : Memory) (dirty : List Nat) (pipe : Pipe) (e : Ex), s.commitCmd c = { s with
        fb := fb, dirty := dirty, pipe := pipe, ex := e
        regs := { s.regs with cmd := c, stageCnt := 0, curX := (advN s.regs.majAxisPcnt.toNat (s.exAtStart .line c)).x, curY := (advN s.regs.majAxisPcnt.toNat (s.exAtStart .line c)).y, errTerm := (advN s.regs.majAxisPcnt.toNat (s.exAtStart .line c)).err } } ∧
      e.active = false ∧ (s.regs.majAxisPcnt = 0#12 → fb = s.fb ∧ dirty = s.dirty) := by
  have hx : extentOf .line s.regs = s.regs.majAxisPcnt.toNat := rfl
  have h0 : extentOf .line s.regs = 0 ↔ s.regs.majAxisPcnt = 0#12 := by
    rw [hx]; constructor
    · intro h; exact BitVec.eq_of_toNat_eq h
    · intro h; rw [h]; rfl
  obtain ⟨fb, dirty, pipe, e, h1, h2, h3⟩ := commitCmd_rest hc (by rcases hp with h | h; exact .inl h; exact .inr (h0.2 h))
  refine ⟨fb, dirty, pipe, e, ?_, h2, fun h => h3 (h0.2 h)⟩
  obtain ⟨k1, k2, -⟩ := exAtStart_fields s .line c
  have hl : (s.exAtStart .line c).left = s.regs.majAxisPcnt.toNat := (exAtStart_counts s .line c).1
  rw [h1]
  by_cases hz : extentOf .line s.regs = 0
  · have hm := h0.1 hz
    rw [if_pos hz, hm]
    have : zeroExtentRegs (s.exAtStart .line c) (s.cleared c).regs = (s.cleared c).regs := by
      unfold zeroExtentRegs; rw [k1]
    rw [this]
    have e1 : (s.exAtStart .line c).x = s.regs.curX ∧ (s.exAtStart .line c).y = s.regs.curY ∧ (s.exAtStart .line c).err = s.regs.errTerm := by
      unfold State.exAtStart startEx setupClass; rw [(setupFeed_fields _ _ _).1]; exact ⟨rfl, rfl, rfl⟩
    show { s with fb := fb, dirty := dirty, pipe := pipe, ex := e, regs := (s.cleared c).regs } = { s with fb := fb, dirty := dirty, pipe := pipe, ex := e, regs := { s.regs with cmd := c, stageCnt := 0, curX := (s.exAtStart .line c).x, curY := (s.exAtStart .line c).y, errTerm := (s.exAtStart .line c).err } }
    rw [e1.1, e1.2.1, e1.2.2]; rfl
  · rw [if_neg hz]
    have hr := runSteps_line ((s.cleared c).withEx (s.exAtStart .line c)) k1
    have : ((s.cleared c).withEx (s.exAtStart .line c)).ex.left = s.regs.majAxisPcnt.toNat := hl
    rw [this] at hr
    rw [hx, hr]
    have hcl := (advN_line (s.exAtStart .line c) k1 s.regs.majAxisPcnt.toNat).2.1
    show { s with fb := fb, dirty := dirty, pipe := pipe, ex := e, regs := writebackRegs (advN s.regs.majAxisPcnt.toNat (s.exAtStart .line c)) (s.cleared c).regs } = _
    unfold writebackRegs; rw [hcl]; rfl

end Sys2Proof.Machine
end

