-- ==== Sys2Proof/Laws/PerInstr.lean ====
section
/-! SUPPORT. The family of per-instruction laws: a well-formed instruction's word decodes to it. -/

namespace Sys2Proof.Laws.RoundTrip

open Sys2Proof

/-- The word a well-formed instruction encodes to decodes to the instruction. -/
def Statement (i : Instr) : Prop := i.wf = true → decode (encode i).1 (encode i).2 = .ok i


theorem entryInvalid (off : BitVec 24) (payload : Word) : Statement (.entryInvalid off payload) := by
  intro _
  simp [encode, decode, decodeEntry]

theorem entryWriteByte (off : BitVec 24) (payload : Word) : Statement (.entryWriteByte off payload) := by
  intro _
  simp [encode, decode, decodeEntry]

theorem entryWriteWord (off : BitVec 24) (payload : Word) : Statement (.entryWriteWord off payload) := by
  intro _
  simp [encode, decode, decodeEntry]

theorem entryWriteDword (off : BitVec 24) (payload : Word) : Statement (.entryWriteDword off payload) := by
  intro _
  simp [encode, decode, decodeEntry]

theorem entryOutByte (off : BitVec 24) (payload : Word) : Statement (.entryOutByte off payload) := by
  intro _
  simp [encode, decode, decodeEntry]

theorem entryOutWord (off : BitVec 24) (payload : Word) : Statement (.entryOutWord off payload) := by
  intro _
  simp [encode, decode, decodeEntry]

theorem entryOutDword (off : BitVec 24) (payload : Word) : Statement (.entryOutDword off payload) := by
  intro _
  simp [encode, decode, decodeEntry]

theorem write8 (o : BitVec 24) (v : Word) : Statement (.write8 o v) := by
  intro _
  simp [encode, decode, decodeAccess]

theorem write16 (o : BitVec 24) (v : Word) : Statement (.write16 o v) := by
  intro _
  simp [encode, decode, decodeAccess]

theorem write32 (o : BitVec 24) (v : Word) : Statement (.write32 o v) := by
  intro _
  simp [encode, decode, decodeAccess]

theorem out8 (p : BitVec 16) (v : Word) : Statement (.out8 p v) := by
  intro _
  simp [encode, decode, decodeAccess, portOfAddr_of_port, Except.map]

theorem out16 (p : BitVec 16) (v : Word) : Statement (.out16 p v) := by
  intro _
  simp [encode, decode, decodeAccess, portOfAddr_of_port, Except.map]

theorem out32 (p : BitVec 16) (v : Word) : Statement (.out32 p v) := by
  intro _
  simp [encode, decode, decodeAccess, portOfAddr_of_port, Except.map]

theorem read8 (o : BitVec 24) : Statement (.read8 o) := by
  intro _
  simp [encode, decode, decodeAccess, ifNoValue]

theorem read16 (o : BitVec 24) : Statement (.read16 o) := by
  intro _
  simp [encode, decode, decodeAccess, ifNoValue]

theorem read32 (o : BitVec 24) : Statement (.read32 o) := by
  intro _
  simp [encode, decode, decodeAccess, ifNoValue]

theorem in8 (p : BitVec 16) : Statement (.in8 p) := by
  intro _
  simp [encode, decode, decodeAccess, portOfAddr_of_port, Except.bind, ifNoValue]

theorem in16 (p : BitVec 16) : Statement (.in16 p) := by
  intro _
  simp [encode, decode, decodeAccess, portOfAddr_of_port, Except.bind, ifNoValue]

theorem in32 (p : BitVec 16) : Statement (.in32 p) := by
  intro _
  simp [encode, decode, decodeAccess, portOfAddr_of_port, Except.bind, ifNoValue]

theorem wCurY (sp : BusSpace) (lane : BitVec 2) (b : Byte) : Statement (.wCurY sp lane b) := fun _ => decode_encodeW .curY sp lane b

theorem wCurX (sp : BusSpace) (lane : BitVec 2) (b : Byte) : Statement (.wCurX sp lane b) := fun _ => decode_encodeW .curX sp lane b

theorem wDestyAxstp (sp : BusSpace) (lane : BitVec 2) (b : Byte) : Statement (.wDestyAxstp sp lane b) := fun _ => decode_encodeW .destyAxstp sp lane b

theorem wDestxDiastp (sp : BusSpace) (lane : BitVec 2) (b : Byte) : Statement (.wDestxDiastp sp lane b) := fun _ => decode_encodeW .destxDiastp sp lane b

theorem wErrTerm (sp : BusSpace) (lane : BitVec 2) (b : Byte) : Statement (.wErrTerm sp lane b) := fun _ => decode_encodeW .errTerm sp lane b

theorem wMajAxisPcnt (sp : BusSpace) (lane : BitVec 2) (b : Byte) : Statement (.wMajAxisPcnt sp lane b) := fun _ => decode_encodeW .majAxisPcnt sp lane b

theorem wCmd (sp : BusSpace) (lane : BitVec 2) (b : Byte) : Statement (.wCmd sp lane b) := fun _ => decode_encodeW .cmd sp lane b

theorem wShortStroke (sp : BusSpace) (lane : BitVec 2) (b : Byte) : Statement (.wShortStroke sp lane b) := fun _ => decode_encodeW .shortStroke sp lane b

theorem wBkgdColor (sp : BusSpace) (lane : BitVec 2) (b : Byte) : Statement (.wBkgdColor sp lane b) := fun _ => decode_encodeW .bkgdColor sp lane b

theorem wFrgdColor (sp : BusSpace) (lane : BitVec 2) (b : Byte) : Statement (.wFrgdColor sp lane b) := fun _ => decode_encodeW .frgdColor sp lane b

theorem wWrtMask (sp : BusSpace) (lane : BitVec 2) (b : Byte) : Statement (.wWrtMask sp lane b) := fun _ => decode_encodeW .wrtMask sp lane b

theorem wRdMask (sp : BusSpace) (lane : BitVec 2) (b : Byte) : Statement (.wRdMask sp lane b) := fun _ => decode_encodeW .rdMask sp lane b

theorem wColorCmp (sp : BusSpace) (lane : BitVec 2) (b : Byte) : Statement (.wColorCmp sp lane b) := fun _ => decode_encodeW .colorCmp sp lane b

theorem wBkgdMix (sp : BusSpace) (lane : BitVec 2) (b : Byte) : Statement (.wBkgdMix sp lane b) := fun _ => decode_encodeW .bkgdMix sp lane b

theorem wFrgdMix (sp : BusSpace) (lane : BitVec 2) (b : Byte) : Statement (.wFrgdMix sp lane b) := fun _ => decode_encodeW .frgdMix sp lane b

theorem wMultifuncCntl (sp : BusSpace) (lane : BitVec 2) (b : Byte) : Statement (.wMultifuncCntl sp lane b) := fun _ => decode_encodeW .multifunc sp lane b

theorem wPixTrans (sp : BusSpace) (lane : BitVec 2) (b : Byte) : Statement (.wPixTrans sp lane b) := fun _ =>
  (decode_byteWrite _ b (addrFits_lane sp _)).trans (congrArg Except.ok (byteWriteInstr_pixTrans sp lane b))

theorem wPixTransWindow (o : BitVec 15) (b : Byte) : Statement (.wPixTransWindow o b) := fun _ =>
  (decode_byteWrite _ b (addrFits_window o)).trans (congrArg Except.ok (byteWriteInstr_window o b))

theorem wNone (a : ByteAddr) (b : Byte) : Statement (.wNone a b) := fun h => by
  obtain ⟨h1, h2⟩ := (noneAddrWf_iff a).1 h
  refine (decode_byteWrite _ b h2).trans ?_
  rw [byteWriteInstr, h1]

theorem rCurY (sp : BusSpace) (lane : BitVec 2) : Statement (.rCurY sp lane) := fun _ => decode_encodeR .curY sp lane

theorem rCurX (sp : BusSpace) (lane : BitVec 2) : Statement (.rCurX sp lane) := fun _ => decode_encodeR .curX sp lane

theorem rDestyAxstp (sp : BusSpace) (lane : BitVec 2) : Statement (.rDestyAxstp sp lane) := fun _ => decode_encodeR .destyAxstp sp lane

theorem rDestxDiastp (sp : BusSpace) (lane : BitVec 2) : Statement (.rDestxDiastp sp lane) := fun _ => decode_encodeR .destxDiastp sp lane

theorem rErrTerm (sp : BusSpace) (lane : BitVec 2) : Statement (.rErrTerm sp lane) := fun _ => decode_encodeR .errTerm sp lane

theorem rMajAxisPcnt (sp : BusSpace) (lane : BitVec 2) : Statement (.rMajAxisPcnt sp lane) := fun _ => decode_encodeR .majAxisPcnt sp lane

theorem rGpStat (sp : BusSpace) (lane : BitVec 2) : Statement (.rGpStat sp lane) := fun _ => decode_encodeR .cmd sp lane

theorem rShortStroke (sp : BusSpace) (lane : BitVec 2) : Statement (.rShortStroke sp lane) := fun _ => decode_encodeR .shortStroke sp lane

theorem rBkgdColor (sp : BusSpace) (lane : BitVec 2) : Statement (.rBkgdColor sp lane) := fun _ => decode_encodeR .bkgdColor sp lane

theorem rFrgdColor (sp : BusSpace) (lane : BitVec 2) : Statement (.rFrgdColor sp lane) := fun _ => decode_encodeR .frgdColor sp lane

theorem rWrtMask (sp : BusSpace) (lane : BitVec 2) : Statement (.rWrtMask sp lane) := fun _ => decode_encodeR .wrtMask sp lane

theorem rRdMask (sp : BusSpace) (lane : BitVec 2) : Statement (.rRdMask sp lane) := fun _ => decode_encodeR .rdMask sp lane

theorem rColorCmp (sp : BusSpace) (lane : BitVec 2) : Statement (.rColorCmp sp lane) := fun _ => decode_encodeR .colorCmp sp lane

theorem rBkgdMix (sp : BusSpace) (lane : BitVec 2) : Statement (.rBkgdMix sp lane) := fun _ => decode_encodeR .bkgdMix sp lane

theorem rFrgdMix (sp : BusSpace) (lane : BitVec 2) : Statement (.rFrgdMix sp lane) := fun _ => decode_encodeR .frgdMix sp lane

theorem rMultifunc (sp : BusSpace) (lane : BitVec 2) : Statement (.rMultifunc sp lane) := fun _ => decode_encodeR .multifunc sp lane

theorem rPixTrans (sp : BusSpace) (lane : BitVec 2) : Statement (.rPixTrans sp lane) := fun _ =>
  (decode_byteRead _ (addrFits_lane sp _)).trans (congrArg Except.ok (byteReadInstr_pixTrans sp lane))

theorem rPixTransWindow (o : BitVec 15) : Statement (.rPixTransWindow o) := fun _ =>
  (decode_byteRead _ (addrFits_window o)).trans (congrArg Except.ok (byteReadInstr_window o))

theorem rNone (a : ByteAddr) : Statement (.rNone a) := fun h => by
  obtain ⟨h1, h2⟩ := (noneAddrWf_iff a).1 h
  refine (decode_byteRead _ h2).trans ?_
  rw [byteReadInstr, h1]

theorem cmdNop (lo : BitVec 13) : Statement (.cmdNop lo) := fun _ =>
  (decode_cmd (cmdWord 0#3 lo)).trans (congrArg Except.ok (decode_cmd_word 0#3 lo))

theorem cmdLine (lo : BitVec 13) : Statement (.cmdLine lo) := fun _ =>
  (decode_cmd (cmdWord 1#3 lo)).trans (congrArg Except.ok (decode_cmd_word 1#3 lo))

theorem cmdRect (lo : BitVec 13) : Statement (.cmdRect lo) := fun _ =>
  (decode_cmd (cmdWord 2#3 lo)).trans (congrArg Except.ok (decode_cmd_word 2#3 lo))

theorem cmdRsv3 (lo : BitVec 13) : Statement (.cmdRsv3 lo) := fun _ =>
  (decode_cmd (cmdWord 3#3 lo)).trans (congrArg Except.ok (decode_cmd_word 3#3 lo))

theorem cmdRsv4 (lo : BitVec 13) : Statement (.cmdRsv4 lo) := fun _ =>
  (decode_cmd (cmdWord 4#3 lo)).trans (congrArg Except.ok (decode_cmd_word 4#3 lo))

theorem cmdRsv5 (lo : BitVec 13) : Statement (.cmdRsv5 lo) := fun _ =>
  (decode_cmd (cmdWord 5#3 lo)).trans (congrArg Except.ok (decode_cmd_word 5#3 lo))

theorem cmdBlit (lo : BitVec 13) : Statement (.cmdBlit lo) := fun _ =>
  (decode_cmd (cmdWord 6#3 lo)).trans (congrArg Except.ok (decode_cmd_word 6#3 lo))

theorem cmdPat (lo : BitVec 13) : Statement (.cmdPat lo) := fun _ =>
  (decode_cmd (cmdWord 7#3 lo)).trans (congrArg Except.ok (decode_cmd_word 7#3 lo))

theorem cmdLineBresenham (hi : BitVec 9) (lo : BitVec 3) : Statement (.cmdLineBresenham hi lo) := fun _ =>
  (decode_lineMode (lineWord hi 0#1 lo)).trans (decode_line_word hi 0#1 lo)

theorem cmdLineRadial (hi : BitVec 9) (lo : BitVec 3) : Statement (.cmdLineRadial hi lo) := fun _ =>
  (decode_lineMode (lineWord hi 1#1 lo)).trans (decode_line_word hi 1#1 lo)

theorem mixNotD (hi : BitVec 12) : Statement (.mixNotD hi) := fun _ =>
  (decode_mix (hi ++ 0#4)).trans (congrArg Except.ok (decode_mix_word hi 0#4))

theorem mixZero (hi : BitVec 12) : Statement (.mixZero hi) := fun _ =>
  (decode_mix (hi ++ 1#4)).trans (congrArg Except.ok (decode_mix_word hi 1#4))

theorem mixOne (hi : BitVec 12) : Statement (.mixOne hi) := fun _ =>
  (decode_mix (hi ++ 2#4)).trans (congrArg Except.ok (decode_mix_word hi 2#4))

theorem mixD (hi : BitVec 12) : Statement (.mixD hi) := fun _ =>
  (decode_mix (hi ++ 3#4)).trans (congrArg Except.ok (decode_mix_word hi 3#4))

theorem mixNotS (hi : BitVec 12) : Statement (.mixNotS hi) := fun _ =>
  (decode_mix (hi ++ 4#4)).trans (congrArg Except.ok (decode_mix_word hi 4#4))

theorem mixSXorD (hi : BitVec 12) : Statement (.mixSXorD hi) := fun _ =>
  (decode_mix (hi ++ 5#4)).trans (congrArg Except.ok (decode_mix_word hi 5#4))

theorem mixSXnorD (hi : BitVec 12) : Statement (.mixSXnorD hi) := fun _ =>
  (decode_mix (hi ++ 6#4)).trans (congrArg Except.ok (decode_mix_word hi 6#4))

theorem mixS (hi : BitVec 12) : Statement (.mixS hi) := fun _ =>
  (decode_mix (hi ++ 7#4)).trans (congrArg Except.ok (decode_mix_word hi 7#4))

theorem mixSNandD (hi : BitVec 12) : Statement (.mixSNandD hi) := fun _ =>
  (decode_mix (hi ++ 8#4)).trans (congrArg Except.ok (decode_mix_word hi 8#4))

theorem mixNotSOrD (hi : BitVec 12) : Statement (.mixNotSOrD hi) := fun _ =>
  (decode_mix (hi ++ 9#4)).trans (congrArg Except.ok (decode_mix_word hi 9#4))

theorem mixSOrNotD (hi : BitVec 12) : Statement (.mixSOrNotD hi) := fun _ =>
  (decode_mix (hi ++ 10#4)).trans (congrArg Except.ok (decode_mix_word hi 10#4))

theorem mixSOrD (hi : BitVec 12) : Statement (.mixSOrD hi) := fun _ =>
  (decode_mix (hi ++ 11#4)).trans (congrArg Except.ok (decode_mix_word hi 11#4))

theorem mixSAndD (hi : BitVec 12) : Statement (.mixSAndD hi) := fun _ =>
  (decode_mix (hi ++ 12#4)).trans (congrArg Except.ok (decode_mix_word hi 12#4))

theorem mixSAndNotD (hi : BitVec 12) : Statement (.mixSAndNotD hi) := fun _ =>
  (decode_mix (hi ++ 13#4)).trans (congrArg Except.ok (decode_mix_word hi 13#4))

theorem mixNotSAndD (hi : BitVec 12) : Statement (.mixNotSAndD hi) := fun _ =>
  (decode_mix (hi ++ 14#4)).trans (congrArg Except.ok (decode_mix_word hi 14#4))

theorem mixSNorD (hi : BitVec 12) : Statement (.mixSNorD hi) := fun _ =>
  (decode_mix (hi ++ 15#4)).trans (congrArg Except.ok (decode_mix_word hi 15#4))

theorem srcBkgdColor (hi : BitVec 9) (lo : BitVec 5) : Statement (.srcBkgdColor hi lo) := fun _ =>
  (decode_src (hi ++ 0#2 ++ lo)).trans (congrArg Except.ok (decode_src_word hi 0#2 lo))

theorem srcFrgdColor (hi : BitVec 9) (lo : BitVec 5) : Statement (.srcFrgdColor hi lo) := fun _ =>
  (decode_src (hi ++ 1#2 ++ lo)).trans (congrArg Except.ok (decode_src_word hi 1#2 lo))

theorem srcCpuData (hi : BitVec 9) (lo : BitVec 5) : Statement (.srcCpuData hi lo) := fun _ =>
  (decode_src (hi ++ 2#2 ++ lo)).trans (congrArg Except.ok (decode_src_word hi 2#2 lo))

theorem srcDisplayMemory (hi : BitVec 9) (lo : BitVec 5) : Statement (.srcDisplayMemory hi lo) := fun _ =>
  (decode_src (hi ++ 3#2 ++ lo)).trans (congrArg Except.ok (decode_src_word hi 3#2 lo))

theorem mixselAlwaysFg (hi : BitVec 4) (lo : BitVec 6) : Statement (.mixselAlwaysFg hi lo) := fun _ =>
  (decode_mixSel (hi ++ 0#2 ++ lo)).trans (congrArg Except.ok (decode_mixSel_word hi 0#2 lo))

theorem mixselReservedAs0 (hi : BitVec 4) (lo : BitVec 6) : Statement (.mixselReservedAs0 hi lo) := fun _ =>
  (decode_mixSel (hi ++ 1#2 ++ lo)).trans (congrArg Except.ok (decode_mixSel_word hi 1#2 lo))

theorem mixselCpuData (hi : BitVec 4) (lo : BitVec 6) : Statement (.mixselCpuData hi lo) := fun _ =>
  (decode_mixSel (hi ++ 2#2 ++ lo)).trans (congrArg Except.ok (decode_mixSel_word hi 2#2 lo))

theorem mixselDisplayMemory (hi : BitVec 4) (lo : BitVec 6) : Statement (.mixselDisplayMemory hi lo) := fun _ =>
  (decode_mixSel (hi ++ 3#2 ++ lo)).trans (congrArg Except.ok (decode_mixSel_word hi 3#2 lo))

theorem cmpAlways (hi : BitVec 3) (lo : BitVec 7) : Statement (.cmpAlways hi lo) := fun _ =>
  (decode_cmp (hi ++ 0#2 ++ lo)).trans (congrArg Except.ok (decode_cmp_word hi 0#2 lo))

theorem cmpNever (hi : BitVec 3) (lo : BitVec 7) : Statement (.cmpNever hi lo) := fun _ =>
  (decode_cmp (hi ++ 1#2 ++ lo)).trans (congrArg Except.ok (decode_cmp_word hi 1#2 lo))

theorem cmpNe (hi : BitVec 3) (lo : BitVec 7) : Statement (.cmpNe hi lo) := fun _ =>
  (decode_cmp (hi ++ 2#2 ++ lo)).trans (congrArg Except.ok (decode_cmp_word hi 2#2 lo))

theorem cmpEq (hi : BitVec 3) (lo : BitVec 7) : Statement (.cmpEq hi lo) := fun _ =>
  (decode_cmp (hi ++ 3#2 ++ lo)).trans (congrArg Except.ok (decode_cmp_word hi 3#2 lo))

theorem mfMinAxisPcnt (data : Slot12) : Statement (.mfMinAxisPcnt data) := fun _ =>
  (decode_multifunc (0#4 ++ data)).trans (congrArg Except.ok (decode_multifunc_word 0#4 data))

theorem mfScissorsT (data : Slot12) : Statement (.mfScissorsT data) := fun _ =>
  (decode_multifunc (1#4 ++ data)).trans (congrArg Except.ok (decode_multifunc_word 1#4 data))

theorem mfScissorsL (data : Slot12) : Statement (.mfScissorsL data) := fun _ =>
  (decode_multifunc (2#4 ++ data)).trans (congrArg Except.ok (decode_multifunc_word 2#4 data))

theorem mfScissorsB (data : Slot12) : Statement (.mfScissorsB data) := fun _ =>
  (decode_multifunc (3#4 ++ data)).trans (congrArg Except.ok (decode_multifunc_word 3#4 data))

theorem mfScissorsR (data : Slot12) : Statement (.mfScissorsR data) := fun _ =>
  (decode_multifunc (4#4 ++ data)).trans (congrArg Except.ok (decode_multifunc_word 4#4 data))

theorem mfSlot5 (data : Slot12) : Statement (.mfSlot5 data) := fun _ =>
  (decode_multifunc (5#4 ++ data)).trans (congrArg Except.ok (decode_multifunc_word 5#4 data))

theorem mfSlot6 (data : Slot12) : Statement (.mfSlot6 data) := fun _ =>
  (decode_multifunc (6#4 ++ data)).trans (congrArg Except.ok (decode_multifunc_word 6#4 data))

theorem mfSlot7 (data : Slot12) : Statement (.mfSlot7 data) := fun _ =>
  (decode_multifunc (7#4 ++ data)).trans (congrArg Except.ok (decode_multifunc_word 7#4 data))

theorem mfSlot8 (data : Slot12) : Statement (.mfSlot8 data) := fun _ =>
  (decode_multifunc (8#4 ++ data)).trans (congrArg Except.ok (decode_multifunc_word 8#4 data))

theorem mfSlot9 (data : Slot12) : Statement (.mfSlot9 data) := fun _ =>
  (decode_multifunc (9#4 ++ data)).trans (congrArg Except.ok (decode_multifunc_word 9#4 data))

theorem mfPixCntl (data : Slot12) : Statement (.mfPixCntl data) := fun _ =>
  (decode_multifunc (10#4 ++ data)).trans (congrArg Except.ok (decode_multifunc_word 10#4 data))

theorem mfSlotb (data : Slot12) : Statement (.mfSlotb data) := fun _ =>
  (decode_multifunc (11#4 ++ data)).trans (congrArg Except.ok (decode_multifunc_word 11#4 data))

theorem mfSlotc (data : Slot12) : Statement (.mfSlotc data) := fun _ =>
  (decode_multifunc (12#4 ++ data)).trans (congrArg Except.ok (decode_multifunc_word 12#4 data))

theorem mfSlotd (data : Slot12) : Statement (.mfSlotd data) := fun _ =>
  (decode_multifunc (13#4 ++ data)).trans (congrArg Except.ok (decode_multifunc_word 13#4 data))

theorem mfMultMisc (data : Slot12) : Statement (.mfMultMisc data) := fun _ =>
  (decode_multifunc (14#4 ++ data)).trans (congrArg Except.ok (decode_multifunc_word 14#4 data))

theorem mfReadSel (data : Slot12) : Statement (.mfReadSel data) := fun _ =>
  (decode_multifunc (15#4 ++ data)).trans (congrArg Except.ok (decode_multifunc_word 15#4 data))

theorem enqueue : Statement .enqueue := fun _ => by
  simp [encode, decode, decodeAgent, ifNoOperand_pack]

theorem enqueueFull : Statement .enqueueFull := fun _ => by
  simp [encode, decode, decodeAgent, ifNoOperand_pack]

theorem dequeueExecute : Statement .dequeueExecute := fun _ => by
  simp [encode, decode, decodeAgent, ifNoOperand_pack]

theorem wake : Statement .wake := fun _ => by
  simp [encode, decode, decodeAgent, ifNoOperand_pack]

theorem empty : Statement .empty := fun _ => by
  simp [encode, decode, decodeAgent, ifNoOperand_pack]

theorem stop : Statement .stop := fun _ => by
  simp [encode, decode, decodeAgent, ifNoOperand_pack]

theorem statusRead (a : Access) : Statement (.statusRead a) := fun h => by
  have hw : a.wf = true := by
    simp only [Instr.wf, Bool.and_eq_true] at h
    exact h.1
  show decodeAgent (packReadAccess 7#8 a) = _
  unfold decodeAgent
  rw [entryType_read, decodeReadAccess_pack _ a hw]
  rfl

theorem drainedRead (a : Access) : Statement (.drainedRead a) := fun h => by
  have hw : a.wf = true := by
    simp only [Instr.wf, Bool.and_eq_true] at h
    exact h.1
  show decodeAgent (packReadAccess 8#8 a) = _
  unfold decodeAgent
  rw [entryType_read, decodeReadAccess_pack _ a hw]
  rfl

theorem waitIdle : Statement .waitIdle := fun _ => by
  simp [encode, decode, decodeAgent, ifNoOperand_pack]

theorem reportUtilization : Statement .reportUtilization := fun _ => by
  simp [encode, decode, decodeAgent, ifNoOperand_pack]

theorem config (pb pitch vramBytes : Nat) : Statement (.config pb pitch vramBytes) := fun h => decode_config h

theorem close : Statement .close := fun _ => by
  simp [encode, decode, decodeAgent, ifNoOperand_pack]

end Sys2Proof.Laws.RoundTrip
end

