-- ==== Sys2Proof/Tests/Slice0.lean ====
section
/-! SUPPORT. Tests of the model: words written out from the spec's encodings, the well-formedness checks,
single steps whose results are the spec's own (spec/95_test_vectors.md), and a witness for the hypotheses
of each statement. -/

namespace Sys2Proof.Tests

open Sys2Proof Sys2Proof.Machine

/-! ## Decoding: words written out from the spec's encodings -/

/-- 30 R100, R101: type in bits 63:56, offset in 55:32, payload in 31:0. -/
theorem test_decode_entries :
    decode .entry 0x0000000000000000#64 = .ok (.entryInvalid 0#24 0#32) ∧
    decode .entry 0x01000100000000BB#64 = .ok (.entryWriteByte 0x000100#24 0xBB#32) ∧
    decode .entry 0x0200A6E800001234#64 = .ok (.entryWriteWord 0x00A6E8#24 0x1234#32) ∧
    decode .entry 0x0300A6E811223344#64 = .ok (.entryWriteDword 0x00A6E8#24 0x11223344#32) ∧
    decode .entry 0x090082E800000005#64 = .ok (.entryOutByte 0x0082E8#24 5#32) ∧
    decode .entry 0x0A0086E800000123#64 = .ok (.entryOutWord 0x0086E8#24 0x0123#32) ∧
    decode .entry 0x0B00BEE84FFF3FFF#64 = .ok (.entryOutDword 0x00BEE8#24 0x4FFF3FFF#32) := by
  decide

/-- 30 R101: the codes outside the table are reserved. -/
theorem test_decode_reserved_entry :
    decode .entry 0x0400000000000000#64 = .error .reservedEntryType ∧
    decode .entry 0x0800000000000000#64 = .error .reservedEntryType ∧
    decode .entry 0xFF00000000000000#64 = .error .reservedEntryType := by
  decide

/-- Accesses, in the model's packing (log 15): a write has its entry kind's code, a read that plus 0x10. -/
theorem test_decode_accesses :
    decode .access 0x01000100000000AA#64 = .ok (.write8 0x100#24 0xAA#32) ∧
    decode .access 0x020001000000AABB#64 = .ok (.write16 0x100#24 0xAABB#32) ∧
    decode .access 0x0300A6E811223344#64 = .ok (.write32 0xA6E8#24 0x11223344#32) ∧
    decode .access 0x090082E800000005#64 = .ok (.out8 0x82E8#16 5#32) ∧
    decode .access 0x0A0086E800000123#64 = .ok (.out16 0x86E8#16 0x123#32) ∧
    decode .access 0x0B00E2E8AABBCCDD#64 = .ok (.out32 0xE2E8#16 0xAABBCCDD#32) ∧
    decode .access 0x1101000000000000#64 = .ok (.read8 0x010000#24) ∧
    decode .access 0x1201000000000000#64 = .ok (.read16 0x010000#24) ∧
    decode .access 0x1301000000000000#64 = .ok (.read32 0x010000#24) ∧
    decode .access 0x19009AE900000000#64 = .ok (.in8 0x9AE9#16) ∧
    decode .access 0x1A009AE800000000#64 = .ok (.in16 0x9AE8#16) ∧
    decode .access 0x1B009AE800000000#64 = .ok (.in32 0x9AE8#16) := by
  decide

/-- 30 R110: the base port of each register, in byte-write words (bit 32 the port space, byte in bits
31:24). -/
theorem test_decode_byte_writes :
    decode .byteWrite 0x1AB0082E8#64 = .ok (.wCurY .port 0#2 0xAB#8) ∧
    decode .byteWrite 0x1AB0086E9#64 = .ok (.wCurX .port 1#2 0xAB#8) ∧
    decode .byteWrite 0x0AB008AEA#64 = .ok (.wDestyAxstp .mapped 2#2 0xAB#8) ∧
    decode .byteWrite 0x0AB008EEB#64 = .ok (.wDestxDiastp .mapped 3#2 0xAB#8) ∧
    decode .byteWrite 0x1AB0092E8#64 = .ok (.wErrTerm .port 0#2 0xAB#8) ∧
    decode .byteWrite 0x1AB0096E8#64 = .ok (.wMajAxisPcnt .port 0#2 0xAB#8) ∧
    decode .byteWrite 0x1AB009AE9#64 = .ok (.wCmd .port 1#2 0xAB#8) ∧
    decode .byteWrite 0x1AB009EE8#64 = .ok (.wShortStroke .port 0#2 0xAB#8) ∧
    decode .byteWrite 0x0AB00A2E8#64 = .ok (.wBkgdColor .mapped 0#2 0xAB#8) ∧
    decode .byteWrite 0x0AB00A6EA#64 = .ok (.wFrgdColor .mapped 2#2 0xAB#8) ∧
    decode .byteWrite 0x1AB00AAEB#64 = .ok (.wWrtMask .port 3#2 0xAB#8) ∧
    decode .byteWrite 0x1AB00AEE8#64 = .ok (.wRdMask .port 0#2 0xAB#8) ∧
    decode .byteWrite 0x1AB00B2E8#64 = .ok (.wColorCmp .port 0#2 0xAB#8) ∧
    decode .byteWrite 0x1AB00B6E8#64 = .ok (.wBkgdMix .port 0#2 0xAB#8) ∧
    decode .byteWrite 0x1AB00BAE8#64 = .ok (.wFrgdMix .port 0#2 0xAB#8) ∧
    decode .byteWrite 0x1AB00BEEB#64 = .ok (.wMultifuncCntl .port 3#2 0xAB#8) ∧
    decode .byteWrite 0x1AB00E2EB#64 = .ok (.wPixTrans .port 3#2 0xAB#8) ∧
    decode .byteWrite 0x0AB00E2E8#64 = .ok (.wPixTrans .mapped 0#2 0xAB#8) ∧
    decode .byteWrite 0x0AB007FFF#64 = .ok (.wPixTransWindow 0x7FFF#15 0xAB#8) ∧
    decode .byteWrite 0x0AB008000#64 = .ok (.wNone (.mapped 0x8000) 0xAB#8) ∧
    decode .byteWrite 0x1AB0042E8#64 = .ok (.wNone (.port 0x42E8#16) 0xAB#8) := by
  decide

/-- The same bases in byte-read words; the CMD slot is read as GP_STAT (30 R110, 42 R240). -/
theorem test_decode_byte_reads :
    decode .byteRead 0x1000082E8#64 = .ok (.rCurY .port 0#2) ∧
    decode .byteRead 0x1000086E9#64 = .ok (.rCurX .port 1#2) ∧
    decode .byteRead 0x000008AEA#64 = .ok (.rDestyAxstp .mapped 2#2) ∧
    decode .byteRead 0x000008EEB#64 = .ok (.rDestxDiastp .mapped 3#2) ∧
    decode .byteRead 0x1000092E8#64 = .ok (.rErrTerm .port 0#2) ∧
    decode .byteRead 0x1000096E8#64 = .ok (.rMajAxisPcnt .port 0#2) ∧
    decode .byteRead 0x100009AE9#64 = .ok (.rGpStat .port 1#2) ∧
    decode .byteRead 0x100009EE8#64 = .ok (.rShortStroke .port 0#2) ∧
    decode .byteRead 0x00000A2E8#64 = .ok (.rBkgdColor .mapped 0#2) ∧
    decode .byteRead 0x00000A6EA#64 = .ok (.rFrgdColor .mapped 2#2) ∧
    decode .byteRead 0x10000AAEB#64 = .ok (.rWrtMask .port 3#2) ∧
    decode .byteRead 0x10000AEE8#64 = .ok (.rRdMask .port 0#2) ∧
    decode .byteRead 0x10000B2E8#64 = .ok (.rColorCmp .port 0#2) ∧
    decode .byteRead 0x10000B6E8#64 = .ok (.rBkgdMix .port 0#2) ∧
    decode .byteRead 0x10000BAE8#64 = .ok (.rFrgdMix .port 0#2) ∧
    decode .byteRead 0x10000BEE9#64 = .ok (.rMultifunc .port 1#2) ∧
    decode .byteRead 0x10000E2EB#64 = .ok (.rPixTrans .port 3#2) ∧
    decode .byteRead 0x000007FFF#64 = .ok (.rPixTransWindow 0x7FFF#15) ∧
    decode .byteRead 0x000010000#64 = .ok (.rNone (.mapped 0x10000)) ∧
    decode .byteRead 0x1000042E8#64 = .ok (.rNone (.port 0x42E8#16)) := by
  decide

/-- 30 R120, R121, R123: CLASS in bits 15:13; RADIAL in bit 3. -/
theorem test_decode_commands :
    decode .cmd 0x0000#64 = .ok (.cmdNop 0#13) ∧
    decode .cmd 0x20A0#64 = .ok (.cmdLine 0xA0#13) ∧
    decode .cmd 0x40F1#64 = .ok (.cmdRect 0xF1#13) ∧
    decode .cmd 0x6000#64 = .ok (.cmdRsv3 0#13) ∧
    decode .cmd 0x9FFF#64 = .ok (.cmdRsv4 0x1FFF#13) ∧
    decode .cmd 0xA001#64 = .ok (.cmdRsv5 1#13) ∧
    decode .cmd 0xC0A0#64 = .ok (.cmdBlit 0xA0#13) ∧
    decode .cmd 0xE0A0#64 = .ok (.cmdPat 0xA0#13) ∧
    decode .lineMode 0x20A7#64 = .ok (.cmdLineBresenham 0x00A#9 7#3) ∧
    decode .lineMode 0x3FE8#64 = .ok (.cmdLineRadial 0x1FE#9 0#3) ∧
    decode .lineMode 0x40A8#64 = .error .notALine := by
  decide

/-- 30 R125, R127: MIX_CODE in bits 3:0 of a mix word. -/
theorem test_decode_mix_codes :
    (List.range 16).map (fun k => decode .mix (0xFFA0#64 ||| BitVec.ofNat 64 k)) =
      [Instr.mixNotD 0xFFA#12, .mixZero 0xFFA#12, .mixOne 0xFFA#12, .mixD 0xFFA#12, .mixNotS 0xFFA#12,
        .mixSXorD 0xFFA#12, .mixSXnorD 0xFFA#12, .mixS 0xFFA#12, .mixSNandD 0xFFA#12,
        .mixNotSOrD 0xFFA#12, .mixSOrNotD 0xFFA#12, .mixSOrD 0xFFA#12, .mixSAndD 0xFFA#12,
        .mixSAndNotD 0xFFA#12, .mixNotSAndD 0xFFA#12, .mixSNorD 0xFFA#12].map .ok := by
  decide

/-- 30 R125, R126: SRC_SEL in bits 6:5 of a mix word; 30 R131: MIX_SEL in bits 7:6 of PIX_CNTL; 30 R132:
CMP_MODE in bits 8:7 of MULT_MISC. -/
theorem test_decode_pipeline_fields :
    decode .src 0x0007#64 = .ok (.srcBkgdColor 0#9 7#5) ∧
    decode .src 0x0027#64 = .ok (.srcFrgdColor 0#9 7#5) ∧
    decode .src 0x0047#64 = .ok (.srcCpuData 0#9 7#5) ∧
    decode .src 0x0067#64 = .ok (.srcDisplayMemory 0#9 7#5) ∧
    decode .mixSel 0x000#64 = .ok (.mixselAlwaysFg 0#4 0#6) ∧
    decode .mixSel 0x040#64 = .ok (.mixselReservedAs0 0#4 0#6) ∧
    decode .mixSel 0x080#64 = .ok (.mixselCpuData 0#4 0#6) ∧
    decode .mixSel 0xFC1#64 = .ok (.mixselDisplayMemory 0xF#4 1#6) ∧
    decode .cmp 0x000#64 = .ok (.cmpAlways 0#3 0#7) ∧
    decode .cmp 0x080#64 = .ok (.cmpNever 0#3 0#7) ∧
    decode .cmp 0x100#64 = .ok (.cmpNe 0#3 0#7) ∧
    decode .cmp 0x380#64 = .ok (.cmpEq 1#3 0#7) := by
  decide

/-- 30 R130: INDEX in bits 15:12, DATA in bits 11:0. -/
theorem test_decode_multifunction :
    (List.range 16).map (fun k => decode .multifunc (BitVec.ofNat 64 (4096 * k) ||| 0x27F#64)) =
      [Instr.mfMinAxisPcnt 0x27F#12, .mfScissorsT 0x27F#12, .mfScissorsL 0x27F#12, .mfScissorsB 0x27F#12,
        .mfScissorsR 0x27F#12, .mfSlot5 0x27F#12, .mfSlot6 0x27F#12, .mfSlot7 0x27F#12, .mfSlot8 0x27F#12,
        .mfSlot9 0x27F#12, .mfPixCntl 0x27F#12, .mfSlotb 0x27F#12, .mfSlotc 0x27F#12, .mfSlotd 0x27F#12,
        .mfMultMisc 0x27F#12, .mfReadSel 0x27F#12].map .ok := by
  decide

/-- The agents' steps, in the model's packing (log 15). -/
theorem test_decode_agents :
    decode .agent 0x0100000000000000#64 = .ok .enqueue ∧
    decode .agent 0x0200000000000000#64 = .ok .enqueueFull ∧
    decode .agent 0x0300000000000000#64 = .ok .dequeueExecute ∧
    decode .agent 0x0400000000000000#64 = .ok .wake ∧
    decode .agent 0x0500000000000000#64 = .ok .empty ∧
    decode .agent 0x0600000000000000#64 = .ok .stop ∧
    decode .agent 0x07009AE800000102#64 = .ok (.statusRead ⟨.port, 0x9AE8#24, .w2⟩) ∧
    decode .agent 0x080086E800000004#64 = .ok (.drainedRead ⟨.mapped, 0x86E8#24, .w4⟩) ∧
    decode .agent 0x0900000000000000#64 = .ok .waitIdle ∧
    decode .agent 0x0A00000000000000#64 = .ok .reportUtilization ∧
    decode .agent 0x0B00010000040001#64 = .ok (.config 1 1024 65536) ∧
    decode .agent 0x0C00000000000000#64 = .ok .close ∧
    decode .agent 0x0D00000000000000#64 = .error .noSuchOperation := by
  decide

/-- 95 DC1 to DC10: byte decode at the edges of the map (30 R112, R113). -/
theorem test_byte_decode_edges :
    decodeAddr (.port 0x86EA#16) = .reg .curX 2#2 ∧ decodeAddr (.port 0xE2EB#16) = .pixel 3#2 ∧
    decodeAddr (.port 0x42E8#16) = .none ∧ decodeAddr (.mapped 0) = .pixel 0#2 ∧
    decodeAddr (.mapped 0x7FFF) = .pixel 3#2 ∧ decodeAddr (.mapped 0x8000) = .none ∧
    decodeAddr (.mapped 0xA6EA) = .reg .frgdColor 2#2 ∧ decodeAddr (.mapped 0xE2E8) = .pixel 0#2 ∧
    decodeAddr (.mapped 0xFFFF) = .none ∧ decodeAddr (.mapped 0x10000) = .none := by
  decide

/-- Words of the opcode table (log 16): an entry, a mapped byte write, a command, a mix word. -/
theorem test_table_words :
    decodeTableWord 64 0x0A0086E800000123 = some (.entryOutWord 0x0086E8#24 0x123#32) ∧
    decodeTableWord 16 0x9AE8 = some (.wCmd .port 0#2 0#8) ∧
    decodeTableWord 16 0x4000 = some (.cmdRect 0#13) ∧
    decodeTableWord 16 0x0007 = some (.mixS 0#12) := by
  decide

/-! ## Well-formedness: each check refuses an ill-formed term -/

/-- 30 R100: a port entry's offset has 16 bits. -/
theorem test_wf_port_entry :
    (Instr.entryOutByte 0x010000#24 0#32).wf = false ∧ (Instr.entryOutWord 0x010000#24 0#32).wf = false ∧
    (Instr.entryOutDword 0xFF82E8#24 0#32).wf = false ∧ (Instr.entryOutDword 0x0082E8#24 0#32).wf = true := by
  decide

/-- 30 R112, R113: a NONE row's address decodes to NONE and has 24 bits. -/
theorem test_wf_none_address :
    (Instr.wNone (.port 0x82E8#16) 0#8).wf = false ∧ (Instr.wNone (.mapped 0x1000000) 0#8).wf = false ∧
    (Instr.rNone (.mapped 0)).wf = false ∧ (Instr.rNone (.mapped 0xFFFFFF)).wf = true := by
  decide

/-- 41 R170: a port access has a 16-bit port number. -/
theorem test_wf_access_port :
    (Instr.statusRead ⟨.port, 0x019AE8#24, .w2⟩).wf = false ∧
    (Instr.drainedRead ⟨.port, 0x0186E8#24, .w2⟩).wf = false := by
  decide

/-- 45 R350, R352: a status read is synchronous, a drained read is not. -/
theorem test_wf_read_steps :
    (Instr.statusRead ⟨.port, 0x0086E8#24, .w2⟩).wf = false ∧
    (Instr.drainedRead ⟨.port, 0x009AE8#24, .w2⟩).wf = false ∧
    (Instr.statusRead ⟨.port, 0x009AE8#24, .w2⟩).wf = true ∧
    (Instr.drainedRead ⟨.port, 0x0086E8#24, .w2⟩).wf = true := by
  decide

/-- The fields of a CONFIG word. -/
theorem test_wf_config :
    (Instr.config 256 1 65536).wf = false ∧ (Instr.config 1 65536 65536).wf = false ∧
    (Instr.config 1 1 (2 ^ 32)).wf = false ∧ (Instr.config 4 4096 16777216).wf = true := by
  decide

/-! ## Single steps, with the results the spec gives -/

/-- The common set-up of spec/95_test_vectors.md: open clip, open masks. -/
def openRegs : Regs :=
  { Regs.reset with
    wrtMask := 0xFFFFFFFF#32, rdMask := 0xFFFFFFFF#32
    mf := (Regs.reset.mf.set 3 0xFFF#12).set 4 0xFFF#12 }

/-- The reset state with some registers, a pitch and a picture. -/
def small (regs : Regs) (pitch : Nat) (fb : Memory) : State :=
  { State.reset with regs := regs, params := { resetParams with pitch := pitch }, fb := fb }

/-- The reset state with `n` Invalid entries counted as queued. -/
def holding (n : Nat) : State := { State.reset with queue := { State.reset.queue with wr := n } }

/-- Whether an instruction gives a next state with a property. -/
def gives (i : Instr) (s : State) (p : State → Bool) : Bool :=
  match exec i s with
  | .next t => p t
  | .fault _ => false
  | .refused _ => false

/-- Whether an outcome is a refusal of this name. -/
def refusedAs (o : Result) (r : Refusal) : Bool :=
  match o with
  | .next _ => false
  | .fault _ => false
  | .refused r' => r' == r

/-- Whether a step gives a next state with a property. -/
def stepGives (s : State) (p : State → Bool) : Bool :=
  match step s with
  | .next t => p t
  | .fault _ => false
  | .refused _ => false

/-- 95 FO1 to FO11: the entries of a write access, the first in the queue, the others pending. -/
theorem test_entries_made :
    makeEntries .port .w2 0x86E8#24 0x0123#32 = [0x0A0086E800000123#64] ∧
    makeEntries .port .w4 0xE2E8#24 0xAABBCCDD#32 = [0x0900E2E8000000DD#64, 0x0900E2E9000000CC#64,
      0x0900E2EA000000BB#64, 0x0900E2EB000000AA#64] ∧
    makeEntries .mapped .w2 0x0100#24 0xAABB#32 = [0x01000100000000BB#64, 0x01000101000000AA#64] ∧
    makeEntries .port .w4 0x86E6#24 0x11223344#32 = [0x0B0086E611223344#64] ∧
    makeEntries .mapped .w4 0x7FFE#24 0x11223344#32 = [0x01007FFE00000044#64, 0x01007FFF00000033#64,
      0x0100800000000022#64, 0x0100800100000011#64] := by
  decide

/-- 95 FO1, FO8, FO3 to FO5: each write access enqueues its first entry and keeps the others. -/
theorem test_write_accesses :
    gives (.out8 0x82E8#16 0xFF05#32) State.reset
      (fun t => t.slot 0 == 0x090082E800000005#64 && t.pstate == .ready && t.wakePending) ∧
    gives (.out16 0x86E8#16 0x0123#32) State.reset (fun t => t.slot 0 == 0x0A0086E800000123#64) ∧
    gives (.out32 0xE2E8#16 0xAABBCCDD#32) State.reset (fun t => t.slot 0 == 0x0900E2E8000000DD#64 &&
      t.pstate == .waitRoom false [0x0900E2E9000000CC#64, 0x0900E2EA000000BB#64, 0x0900E2EB000000AA#64]) ∧
    gives (.write8 0x0100#24 0xBB#32) State.reset (fun t => t.slot 0 == 0x01000100000000BB#64) ∧
    gives (.write16 0x0100#24 0xAABB#32) State.reset
      (fun t => t.slot 0 == 0x01000100000000BB#64 && t.pstate == .waitRoom false [0x01000101000000AA#64]) ∧
    gives (.write32 0xA6E8#24 0x11223344#32) State.reset (fun t => t.slot 0 == 0x0300A6E811223344#64) := by
  decide

/-- 95 Q1: at `QCAP = 16` an enqueue to 7, 15 or 16 entries wakes the Consumer, one to 8 or 14 does not. -/
theorem test_wake_marks :
    [7, 8, 14, 15, 16].map (wakesAt { resetParams with qcap := 16 }) = [true, false, false, true, true] := by
  decide

/-- 95 Q3: ENQUEUE at `q.wr = 7` writes slot 7, the next one slot 0. -/
theorem test_enqueue_slots :
    gives .enqueue { State.reset with
      queue := { State.reset.queue with rd := 5, wr := 7 }, pstate := .waitRoom false [0x01AA#64, 0x01BB#64] }
      (fun t => t.slot 7 == 0x01AA#64 && t.queue.wr == 8 && t.pstate == .waitRoom false [0x01BB#64]) ∧
    gives .enqueue { State.reset with
      queue := { State.reset.queue with rd := 5, wr := 8 }, pstate := .waitRoom false [0x01BB#64] }
      (fun t => t.slot 0 == 0x01BB#64 && t.queue.wr == 9 && t.pstate == .ready) := by
  decide

/-- 95 §1.3, steps 9 and 12: the ninth enqueue holds, and ends when there is room. -/
theorem test_enqueue_full :
    gives (.out16 0x86E8#16 9#32) (holding 8)
      (fun t => t.pstate == .waitRoom true [0x0A0086E800000009#64] && t.wakePending && t.queue.wr == 8) ∧
    gives .enqueueFull { holding 8 with
      queue := { State.reset.queue with rd := 1, wr := 8 }, pstate := .waitRoom true [0x0A0086E800000009#64] }
      (fun t => t.pstate == .ready && t.queue.wr == 9 && t.wakePending) := by
  decide

/-- 95 §1.3, steps 10 and 11, Q3: WAKE, then the head entry executes and its slot is Invalid. -/
theorem test_wake_and_dequeue :
    gives .wake { holding 1 with wakePending := true }
      (fun t => t.cstate == .draining && t.busy && !t.wakePending) ∧
    gives .dequeueExecute { State.reset with
      queue := { slots := [0x0A0086E800000001#64, 0, 0, 0, 0, 0, 0, 0], rd := 8, wr := 9 }
      cstate := .draining, busy := true }
      (fun t => t.regs.curX == 1#16 && t.slot 0 == 0#64 && t.queue.rd == 9) := by
  decide

/-- 41 R183, R184: EMPTY goes to Idle, STOP to Stopped. -/
theorem test_empty_and_stop :
    gives .empty { State.reset with cstate := .draining, busy := true } (fun t => t.cstate == .idle && !t.busy) ∧
    gives .stop { State.reset with stop := true, wakePending := true }
      (fun t => t.cstate == .stopped && !t.wakePending) := by
  decide

/-- 95 FO10, FO2, RW21: entries execute byte by byte, each where its own address decodes. -/
theorem test_entries_execute :
    gives (.entryOutDword 0x86E6#24 0x11223344#32) State.reset (fun t => t.regs.curX == 0x0122#16) ∧
    gives (.entryWriteDword 0xA6E8#24 0x11223344#32) State.reset
      (fun t => t.regs.frgdColor == 0x11223344#32) ∧
    gives (.entryWriteWord 0xA6EA#24 0xBEEF#32) State.reset (fun t => t.regs.frgdColor == 0xBEEF0000#32) ∧
    gives (.entryOutWord 0x9AE8#24 0x40A0#32) State.reset (fun t => t.regs.cmd == 0x40A0#16) ∧
    gives (.entryOutByte 0x9AE8#24 0xA0#32) State.reset (fun t => t.regs.cmd == 0x00A0#16) ∧
    gives (.entryWriteByte 0xA6E9#24 0x77#32) State.reset (fun t => t.regs.frgdColor == 0x7700#32) ∧
    gives (.entryInvalid 0x86E8#24 0xFF#32) State.reset (fun t => t == State.reset) := by
  decide

/-- 95 RW16 to RW18, RW2: the merge and the kept bits. -/
theorem test_register_writes :
    gives (.wCurY .port 0#2 0x10#8) { State.reset with regs := { Regs.reset with curY := 0xFFFF#16 } }
      (fun t => t.regs.curY == 0x0F10#16) ∧
    gives (.wCurX .port 1#2 0xFF#8) State.reset (fun t => t.regs.curX == 0x0F00#16) ∧
    gives (.wDestyAxstp .port 1#2 0x3F#8)
      { State.reset with regs := { Regs.reset with destyAxstp := 0x00FE#16 } }
      (fun t => t.regs.destyAxstp == 0xFFFE#16) ∧
    gives (.wDestxDiastp .port 1#2 0x20#8) State.reset (fun t => t.regs.destxDiastp == 0xE000#16) ∧
    gives (.wErrTerm .port 1#2 0xDF#8) State.reset (fun t => t.regs.errTerm == 0x1F00#16) ∧
    gives (.wMajAxisPcnt .port 1#2 0x10#8) { State.reset with regs := { Regs.reset with majAxisPcnt := 4#12 } }
      (fun t => t.regs.majAxisPcnt == 4#12) ∧
    gives (.wShortStroke .port 1#2 0x12#8) State.reset (fun t => t.regs.shortStroke == 0x1200#16) := by
  decide

/-- 95 RW12 to RW14: the 32-bit registers and the mix registers keep the merged value. -/
theorem test_merged_writes :
    gives (.wFrgdColor .port 3#2 0xBE#8) { State.reset with regs := { Regs.reset with frgdColor := 0x12345678#32 } }
      (fun t => t.regs.frgdColor == 0xBE345678#32) ∧
    gives (.wBkgdColor .port 1#2 0x77#8) { State.reset with regs := { Regs.reset with bkgdColor := 0xBEEF5678#32 } }
      (fun t => t.regs.bkgdColor == 0xBEEF7778#32) ∧
    gives (.wWrtMask .port 0#2 0x0F#8) State.reset (fun t => t.regs.wrtMask == 0x0F#32) ∧
    gives (.wRdMask .port 2#2 0x0F#8) State.reset (fun t => t.regs.rdMask == 0x0F0000#32) ∧
    gives (.wColorCmp .port 3#2 0xAB#8) State.reset (fun t => t.regs.colorCmp == 0xAB000000#32) ∧
    gives (.wFrgdMix .port 1#2 0xFF#8) { State.reset with regs := { Regs.reset with frgdMix := 0xA7#16 } }
      (fun t => t.regs.frgdMix == 0xFFA7#16) ∧
    gives (.wBkgdMix .port 0#2 0x03#8) State.reset (fun t => t.regs.bkgdMix == 3#16) := by
  decide

/-- 95 RW15, RW19, MF4, MF5: unused lanes, the command latch, the multifunction latch and commit. -/
theorem test_latches :
    gives (.wCurY .port 2#2 0x34#8) State.reset (fun t => t == State.reset) ∧
    gives (.wCmd .port 0#2 0xA0#8) State.reset (fun t => t.regs.cmd == 0x00A0#16) ∧
    gives (.wMultifuncCntl .port 0#2 0x55#8) { State.reset with regs := { Regs.reset with mfLatch := 0x2100#16 } }
      (fun t => t.regs.mfLatch == 0x2155#16 && t.regs.mf == Regs.reset.mf) ∧
    gives (.wMultifuncCntl .port 3#2 0xA0#8) { State.reset with regs := { Regs.reset with mfLatch := 0x2155#16 } }
      (fun t => t.regs.mfLatch == 0xA055#16 && t.regs.mf[10] == 0x055#12 && t.regs.mf[2] == 0#12) := by
  decide

/-- 95 CF2, DC6: a pixel byte with no primitive waiting, and a byte where no register is. -/
theorem test_ignored_bytes :
    gives (.wPixTrans .port 0#2 0xFF#8) State.reset (fun t => t == State.reset) ∧
    gives (.wPixTransWindow 0x7FFF#15 0xFF#8) State.reset (fun t => t == State.reset) ∧
    gives (.wNone (.mapped 0x8000) 0xFF#8) State.reset (fun t => t == State.reset) := by
  decide

/-- 42 R222: each multifunction word writes its own slot. -/
theorem test_multifunction_commits :
    let run : List Instr := [.mfMinAxisPcnt 1#12, .mfScissorsT 2#12, .mfScissorsL 3#12, .mfScissorsB 4#12,
      .mfScissorsR 5#12, .mfSlot5 6#12, .mfSlot6 7#12, .mfSlot7 8#12, .mfSlot8 9#12, .mfSlot9 10#12,
      .mfPixCntl 11#12, .mfSlotb 12#12, .mfSlotc 13#12, .mfSlotd 14#12, .mfMultMisc 15#12, .mfReadSel 16#12]
    (match execAll run State.reset with
      | .next t => t.regs.mf.toList == (List.range 16).map (fun k => BitVec.ofNat 12 (k + 1)) &&
          t.regs.mfLatch == 0xF010#16
      | _ => false) = true := by
  decide

/-- 95 MX: the sixteen mix codes at `PB = 1` with `S = 0xCC` and `D = 0xAA`. -/
theorem test_mix_rows :
    [Instr.mixNotD 0#12, .mixZero 0#12, .mixOne 0#12, .mixD 0#12, .mixNotS 0#12, .mixSXorD 0#12, .mixSXnorD 0#12,
      .mixS 0#12, .mixSNandD 0#12, .mixNotSOrD 0#12, .mixSOrNotD 0#12, .mixSOrD 0#12, .mixSAndD 0#12,
      .mixSAndNotD 0#12, .mixNotSAndD 0#12, .mixSNorD 0#12].map (fun i =>
        match exec i { State.reset with pipe := { Pipe.reset with src := 0xCC#32, d := 0xAA#32 } } with
        | .next t => t.pipe.r
        | _ => 0xBAD#32) =
      [0x55#32, 0x00#32, 0xFF#32, 0xAA#32, 0x33#32, 0x66#32, 0x99#32, 0xCC#32, 0x77#32, 0xBB#32, 0xDD#32,
        0xEE#32, 0x88#32, 0x44#32, 0x22#32, 0x11#32] := by
  decide

/-- 95 PX4, PX5, PX6, CM: the source, selector and compare rows in a Rectangle Fill at `PB = 1`. -/
theorem test_pipeline_rows :
    let s : State := { State.reset with
      regs := { Regs.reset with bkgdColor := 0x11#32, frgdColor := 0x12345678#32, colorCmp := 0xAB34#32 }
      ex := { Ex.reset with cls := .rect }
      pipe := { Pipe.reset with vsrc := 0x99#32, src := 0x34#32, sel := false } }
    gives (.srcBkgdColor 0#9 7#5) s (fun t => t.pipe.src == 0x11#32) ∧
    gives (.srcFrgdColor 0#9 7#5) s (fun t => t.pipe.src == 0x78#32) ∧
    gives (.srcCpuData 0#9 7#5) s (fun t => t.pipe.src == 0#32) ∧
    gives (.srcDisplayMemory 0#9 7#5) s (fun t => t.pipe.src == 0#32) ∧
    gives (.mixselAlwaysFg 0#4 0#6) s (fun t => t.pipe.sel) ∧
    gives (.mixselReservedAs0 0#4 0#6) s (fun t => t.pipe.sel) ∧
    gives (.mixselCpuData 0#4 0#6) s (fun t => t.pipe.sel) ∧
    gives (.mixselDisplayMemory 0#4 0#6) s (fun t => t.pipe.sel) ∧
    gives (.cmpAlways 0#3 0#7) s (fun t => t.pipe.pass) ∧
    gives (.cmpNever 0#3 0#7) s (fun t => !t.pipe.pass) ∧
    gives (.cmpNe 0#3 0#7) s (fun t => !t.pipe.pass) ∧
    gives (.cmpEq 0#3 0#7) s (fun t => t.pipe.pass) := by
  decide

/-- 43 R254, R256: the same rows where the CPU or the framebuffer gives the datum. -/
theorem test_pipeline_rows_fed :
    gives (.srcCpuData 0#9 7#5) { State.reset with
      ex := { Ex.reset with feed := .colour }, pipe := { Pipe.reset with item := .pix 0x1AB#32 } }
      (fun t => t.pipe.src == 0xAB#32) ∧
    gives (.srcDisplayMemory 0#9 7#5) { State.reset with
      ex := { Ex.reset with cls := .blit }, pipe := { Pipe.reset with vsrc := 0x99#32 } }
      (fun t => t.pipe.src == 0x99#32) ∧
    gives (.mixselCpuData 0#4 0#6) { State.reset with
      ex := { Ex.reset with feed := .mono }, pipe := { Pipe.reset with item := .bit false, sel := true } }
      (fun t => !t.pipe.sel) ∧
    gives (.mixselDisplayMemory 0#4 0#6) { State.reset with
      ex := { Ex.reset with cls := .pat }, pipe := { Pipe.reset with vsrc := 0#32, sel := true } }
      (fun t => !t.pipe.sel) := by
  decide

/-- 95 AD1 to AD5: pixel addresses. -/
theorem test_pixel_addresses :
    pixAddr { resetParams with pitch := 4096 } 1#16 16#16 = 1 ∧
    pixAddr { resetParams with pb := 4 } 1023#16 15#16 = 0xFFFC ∧
    pixAddr { resetParams with pb := 2, pitch := 640 } 100#16 20#16 = 0x64C8 ∧
    pixAddr { resetParams with pb := 4, pitch := 4096 } 0#16 4#16 = 0 ∧
    pixAddr { resetParams with pitch := 16 } 0xFFFF#16 0#16 = 0xFFFF := by
  decide

/-- 95 PX1, PX2: the write-mask merge. -/
theorem test_mask_merge :
    maskMerge 1 0x0F#32 0xAB#32 0x12#32 = 0x1B#32 ∧
    maskMerge 4 0x00FF00FF#32 (mixFn 5#4 0xFFFFFFFF#32 0x01020304#32) 0x01020304#32 = 0x01FD03FB#32 := by
  decide

/-- 95 S7, RF1: the rectangle of 44 R314. -/
theorem test_rectangle :
    gives (.cmdRect 0x00A0#13)
      (small { openRegs with
        frgdMix := 0x27#16, frgdColor := 0x55#32, curX := 10#16, curY := 10#16, majAxisPcnt := 4#12
        mf := openRegs.mf.set 0 2#12 } 100 [])
      (fun t => t.fb == [(1010, 0x55#8), (1011, 0x55#8), (1012, 0x55#8), (1013, 0x55#8), (1110, 0x55#8),
          (1111, 0x55#8), (1112, 0x55#8), (1113, 0x55#8)] &&
        t.regs.curX == 10#16 && t.regs.curY == 12#16 && t.dirty == [0] && !t.ex.active) := by
  decide +kernel

/-- 44 R284: a Rectangle Fill of width 0 moves CUR_Y by its height. -/
theorem test_rectangle_zero_extent :
    gives (.cmdRect 0x00A0#13)
      (small { openRegs with frgdMix := 0x27#16, curY := 5#16, mf := openRegs.mf.set 0 3#12 } 100 [])
      (fun t => t.fb == [] && t.dirty == [] && t.regs.curX == 0#16 && t.regs.curY == 8#16) := by
  decide +kernel

/-- The registers of the Line of 44 R306. -/
def lineRegs : Regs :=
  { openRegs with
    frgdMix := 0x27#16, frgdColor := 0x0F#32, majAxisPcnt := 4#12
    destyAxstp := 2#16, destxDiastp := 0xFFFC#16, errTerm := 3#16 }

/-- 95 LN1, LN2: the x-major Line of 44 R306 and its y-major image. -/
theorem test_lines :
    gives (.cmdLine 0x00A0#13) (small lineRegs 16 [])
      (fun t => t.fb == [(0, 0x0F#8), (1, 0x0F#8), (18, 0x0F#8), (19, 0x0F#8)] &&
        t.regs.curX == 4#16 && t.regs.curY == 1#16 && t.regs.errTerm == 5#16) ∧
    gives (.cmdLineBresenham 0x00E#9 0#3) (small lineRegs 16 [])
      (fun t => t.fb == [(0, 0x0F#8), (16, 0x0F#8), (33, 0x0F#8), (49, 0x0F#8)] &&
        t.regs.curX == 1#16 && t.regs.curY == 4#16 && t.regs.errTerm == 5#16) := by
  decide +kernel

/-- 95 LR, directions 3 and 6: radial Lines of two pixels from (5,5). -/
theorem test_radial_lines :
    gives (.cmdLineRadial 0x006#9 0#3)
      (small { lineRegs with curX := 5#16, curY := 5#16, majAxisPcnt := 2#12, errTerm := 7#16 } 16 [])
      (fun t => t.fb == [(68, 0x0F#8), (85, 0x0F#8)] &&
        t.regs.curX == 3#16 && t.regs.curY == 3#16 && t.regs.errTerm == 7#16) ∧
    gives (.cmdLineRadial 0x00C#9 0#3)
      (small { lineRegs with curX := 5#16, curY := 5#16, majAxisPcnt := 2#12, errTerm := 7#16 } 16 [])
      (fun t => t.fb == [(85, 0x0F#8), (101, 0x0F#8)] &&
        t.regs.curX == 5#16 && t.regs.curY == 7#16 && t.regs.errTerm == 7#16) := by
  decide +kernel

/-- 95 BB2, BB3: an overlapping BitBlt smears in one direction and moves in the other. -/
theorem test_blits :
    gives (.cmdBlit 0x00A0#13)
      (small { openRegs with
        frgdMix := 0x67#16, destxDiastp := 1#16, majAxisPcnt := 4#12, mf := openRegs.mf.set 0 1#12 } 16
        [(0, 1#8), (1, 2#8), (2, 3#8), (3, 4#8)])
      (fun t => t.fb == [(0, 1#8), (1, 1#8), (2, 1#8), (3, 1#8), (4, 1#8)] &&
        t.regs.curY == 1#16 && t.regs.destxDiastp == 1#16 && t.regs.destyAxstp == 1#16) ∧
    gives (.cmdBlit 0x0080#13)
      (small { openRegs with
        frgdMix := 0x67#16, curX := 3#16, destxDiastp := 4#16, majAxisPcnt := 4#12
        mf := openRegs.mf.set 0 1#12 } 16 [(0, 1#8), (1, 2#8), (2, 3#8), (3, 4#8)])
      (fun t => t.fb == [(0, 1#8), (1, 1#8), (2, 2#8), (3, 3#8), (4, 4#8)] &&
        t.regs.curX == 3#16 && t.regs.destxDiastp == 4#16) := by
  decide +kernel

/-- 95 PF2, 44 R334: a pattern row read from phase 2. -/
theorem test_pattern :
    gives (.cmdPat 0x00A0#13)
      (small { openRegs with
        frgdMix := 0x67#16, curX := 2#16, destxDiastp := 8#16, majAxisPcnt := 8#12
        mf := openRegs.mf.set 0 1#12 } 16
        [(1, 1#8), (2, 2#8), (3, 3#8), (4, 4#8), (5, 5#8), (6, 6#8), (7, 7#8)])
      (fun t => t.fb == [(1, 1#8), (2, 2#8), (3, 3#8), (4, 4#8), (5, 5#8), (6, 6#8), (7, 7#8), (8, 2#8),
          (9, 3#8), (10, 4#8), (11, 5#8), (12, 6#8), (13, 7#8), (15, 1#8)] &&
        t.regs.curX == 2#16 && t.regs.destxDiastp == 8#16 && t.regs.destyAxstp == 1#16) := by
  decide +kernel

/-- 44 R282: the no-op classes change only the latch. -/
theorem test_noop_commands :
    gives (.cmdNop 5#13) State.reset (fun t => t.regs.cmd == 0x0005#16 && t.fb == [] && !t.ex.active) ∧
    gives (.cmdRsv3 0#13) State.reset (fun t => t == { State.reset with regs := { Regs.reset with cmd := 0x6000#16 } }) ∧
    gives (.cmdRsv4 0#13) State.reset (fun t => t == { State.reset with regs := { Regs.reset with cmd := 0x8000#16 } }) ∧
    gives (.cmdRsv5 0#13) State.reset
      (fun t => t == { State.reset with regs := { Regs.reset with cmd := 0xA000#16 } }) := by
  decide

/-- The set-up "M" of 95 §2.9 with an 8 by `h` CPU-fed Rectangle Fill waiting at (2,5). -/
def monoWaiting : State :=
  { small { openRegs with
      frgdMix := 0x27#16, bkgdMix := 0x03#16, frgdColor := 0xFF#32, curX := 2#16, curY := 5#16
      majAxisPcnt := 8#12, cmd := 0x41A0#16, mf := (openRegs.mf.set 0 3#12).set 10 0x080#12 } 16 [] with
    ex := { Ex.reset with
      active := true, cls := .rect, cmd := 0x41A0#16, ms := 2#2, feed := .mono, u := 1, x := 2#16, y := 5#16
      x0 := 2#16, left := 8, w := 8#12, rows := 2 } }

/-- 95 CF13: the command waits; the first unit draws its row and writes the position back. -/
theorem test_cpu_fed :
    gives (.cmdRect 0x01A0#13) { monoWaiting with ex := Ex.reset } (fun t => t == monoWaiting) ∧
    gives (.wPixTrans .port 0#2 0xF0#8) monoWaiting
      (fun t => t.fb == [(82, 0xFF#8), (83, 0xFF#8), (84, 0xFF#8), (85, 0xFF#8)] &&
        t.regs.curX == 2#16 && t.regs.curY == 6#16 && t.ex.active && t.regs.stageCnt == 0) := by
  decide +kernel

/-- 95 ST1, ST4, ST5, ST7: GP_STAT. -/
theorem test_status_reads :
    gives (.in16 0x9AE8#16) State.reset (fun t => t.out.busData == some 0#32 && t.wakePending) ∧
    gives (.in16 0x9AE8#16) (holding 8) (fun t => t.out.busData == some 0x02FF#32) ∧
    gives (.in8 0x9AE9#16) { State.reset with cstate := .draining, busy := true }
      (fun t => t.out.busData == some 0x02#32 && !t.wakePending) ∧
    gives (.in32 0x9AE8#16) (holding 3) (fun t => t.out.busData == some 0x0200#32) ∧
    gives (.rGpStat .port 1#2) (holding 8) (fun t => t.out.busData == some 0x02#32) ∧
    gives (.statusRead ⟨.port, 0x9AE8#24, .w2⟩) (holding 8) (fun t => t.out.busData == some 0x02FF#32) := by
  decide

/-- 95 RD2, RD5, RD6, MF6: drained reads of an empty queue, and reads of no register. -/
theorem test_reads :
    let s : State := { State.reset with regs := { Regs.reset with destyAxstp := 0xE000#16, curX := 0x123#16 } }
    gives (.in32 0x8AE8#16) s (fun t => t.out.busData == some 0x0000E000#32) ∧
    gives (.in32 0x8AE6#16) s (fun t => t.out.busData == some 0xE000FFFF#32) ∧
    gives (.read16 0x10000#24) s (fun t => t.out.busData == some 0xFFFF#32) ∧
    gives (.read8 0x8AE9#24) s (fun t => t.out.busData == some 0xE0#32) ∧
    gives (.read32 0x86E8#24) s (fun t => t.out.busData == some 0x123#32) ∧
    gives (.in16 0xBEE8#16) { State.reset with
      regs := { Regs.reset with mf := (Regs.reset.mf.set 15 0x004#12).set 4 0x27F#12 } }
      (fun t => t.out.busData == some 0x427F#32) := by
  decide

/-- 42 R240, R241: one byte of each register. -/
theorem test_register_reads :
    let s : State := { State.reset with
      regs := { Regs.reset with
        curY := 0x0102#16, curX := 0x0304#16, destyAxstp := 0x0506#16, destxDiastp := 0x0708#16
        errTerm := 0x090A#16, majAxisPcnt := 0xB0C#12, shortStroke := 0x0D0E#16, bkgdColor := 0x0F101112#32
        frgdColor := 0x13141516#32, wrtMask := 0x1718191A#32, rdMask := 0x1B1C1D1E#32
        colorCmp := 0x1F202122#32, bkgdMix := 0x2324#16, frgdMix := 0x2526#16
        mf := (Regs.reset.mf.set 15 0x002#12).set 2 0x345#12 } }
    [Instr.rCurY .port 0#2, .rCurX .port 1#2, .rDestyAxstp .mapped 0#2, .rDestxDiastp .port 1#2,
      .rErrTerm .port 0#2, .rMajAxisPcnt .port 1#2, .rShortStroke .port 0#2, .rBkgdColor .mapped 3#2,
      .rFrgdColor .port 2#2, .rWrtMask .port 1#2, .rRdMask .port 0#2, .rColorCmp .port 3#2,
      .rBkgdMix .port 1#2, .rFrgdMix .port 2#2, .rMultifunc .port 1#2, .rPixTrans .port 0#2,
      .rPixTransWindow 0x1234#15, .rNone (.mapped 0x8000)].map (fun i =>
        match exec i s with
        | .next t => t.out.busData
        | _ => none) =
      [0x02, 0x03, 0x06, 0x07, 0x0A, 0x0B, 0x0E, 0x0F, 0x14, 0x19, 0x1E, 0x1F, 0x23, 0x00, 0x23, 0xFF, 0xFF,
        0xFF].map (fun n => some (BitVec.ofNat 32 n)) := by
  decide

/-- 95 ST8: a drained read waits for the queue, then returns. -/
theorem test_drained_read :
    gives (.in16 0x86E8#16) (holding 2)
      (fun t => t.pstate == .waitDrain ⟨.port, 0x86E8#24, .w2⟩ && t.wakePending && t.out.busData == none) ∧
    gives (.drainedRead ⟨.port, 0x86E8#24, .w2⟩) { State.reset with
      pstate := .waitDrain ⟨.port, 0x86E8#24, .w2⟩, regs := { Regs.reset with curX := 7#16 } }
      (fun t => t.pstate == .ready && t.out.busData == some 7#32) := by
  decide

/-- 95 ST9, ST10: WAIT-IDLE holds on a queue that is not empty and returns with a primitive waiting. -/
theorem test_wait_idle :
    gives .waitIdle (holding 2) (fun t => t.wakePending && t.hstate == .waitIdle) ∧
    gives .waitIdle monoWaiting (fun t => t == monoWaiting) := by
  decide

/-- 45 R356: REPORT-UTILIZATION returns a number, the model's free value; 00 R14: a Host that holds has no such
step, so the call waits at the head of the inputs. -/
theorem test_report_utilization :
    (match exec .reportUtilization State.reset with
      | .next t => t.out.utilization.isSome = true ∧ t.queue = State.reset.queue
      | _ => False) ∧
    (∀ h ∈ [HState.waitIdle, .waitStopped, .waitBoth],
      ({ State.reset with hstate := h } : State).heldBack .reportUtilization = true) := by
  exact ⟨⟨rfl, rfl⟩, by decide⟩

/-- 70 R414: CONFIG sets its three values, abandons a waiting primitive and keeps the picture of a size that
stays; it is refused while entries are queued. -/
theorem test_config :
    gives (.config 2 640 65536) { monoWaiting with fb := [(3, 7#8)] }
      (fun t => t.params == ⟨8, 2, 640, 65536⟩ && !t.ex.active && t.fb == [(3, 7#8)]) ∧
    refusedAs (exec (.config 2 640 65536) (holding 1)) .configWhileBusy := by
  decide

/-- 92 D44: CLOSE taken while WAIT-IDLE holds sets `stop`; the next steps of the Host alone return WAIT-IDLE
and leave close waiting. -/
theorem test_close_lifts_wait_idle :
    let held := { holding 1 with hstate := .waitIdle, wakePending := true, cstate := .draining, busy := true }
    held.heldBack .close = false ∧
    gives .close held (fun t => t.stop && t.hstate == .waitBoth && t.hostStep == some .waitIdle) ∧
    gives .waitIdle { held with stop := true, hstate := .waitBoth }
      (fun t => t.hstate == .waitStopped && t.occupancy == 1) := by
  decide

/-- 10 R38: CLOSE sets `stop` and waits for Stopped; 41 R186: an access after close is refused. -/
theorem test_close :
    gives .close State.reset (fun t => t.stop && t.wakePending && t.hstate == .waitStopped) ∧
    refusedAs (exec (.out8 0x82E8#16 0#32) { State.reset with stop := true, cstate := .stopped }) .closed := by
  decide

/-- A word placed by `withFetchWord` is the first step's; with no input the waiting agents go on. -/
theorem test_step :
    stepGives (State.reset.withFetchWord 64 0x0A0086E800000123)
      (fun t => t.regs.curX == 0x123#16 && t.inputs == []) ∧
    stepGives { holding 1 with wakePending := true } (fun t => t.cstate == .draining) ∧
    stepGives State.reset (fun t => t == State.reset) := by
  decide

/-! ## Witnesses: states and operands that meet the hypotheses of the statements

Each theorem is named after its statement and shows every hypothesis, clause by clause at the boundary
values where there are several. -/

/-- `entryOk`, evaluated. -/
def entryCheck (e : EntryWord) : Bool :=
  match kindOf (entryType e) with
  | some (sp, w) =>
    (entryPayload e &&& ~~~pixMask w.bytes) == 0#32 && (sp != .port || portEntryWf (entryOffset e))
  | none => false

theorem entryOk_of_check {e : EntryWord} (h : entryCheck e = true) : entryOk e := by
  revert h
  unfold entryCheck entryOk
  generalize kindOf (entryType e) = k
  intro h
  match k with
  | none => exact absurd h (by simp)
  | some (sp, w) =>
    simp only [Bool.and_eq_true, beq_iff_eq, Bool.or_eq_true, bne_iff_ne, ne_eq] at h
    exact ⟨h.1, fun hp => h.2.resolve_left (fun hn => hn hp)⟩

/-- `queueOk`, evaluated. -/
def queueCheck (s : State) : Bool :=
  s.queue.slots.length == s.params.qcap && s.queue.rd ≤ s.queue.wr && s.queue.wr - s.queue.rd ≤ s.params.qcap &&
    (List.range s.params.qcap).all (fun k =>
      if (List.range s.occupancy).any (fun i => k == slotIndex s.params (s.queue.rd + i)) then
        entryCheck (s.slot k)
      else s.slot k == 0#64)

theorem queueOk_of_check {s : State} (h : queueCheck s = true) : queueOk s := by
  unfold queueCheck at h
  simp only [Bool.and_eq_true, beq_iff_eq, decide_eq_true_eq, List.all_eq_true, List.mem_range] at h
  refine ⟨h.1.1.1, h.1.1.2, h.1.2, fun k hk => ?_⟩
  have hc := h.2 k hk
  by_cases ho : s.occupied k
  · have ha : (List.range s.occupancy).any (fun i => k == slotIndex s.params (s.queue.rd + i)) = true := by
      obtain ⟨i, hi, he⟩ := ho
      exact List.any_eq_true.2 ⟨i, List.mem_range.2 hi, by simp [he]⟩
    rw [if_pos ha] at hc
    exact ⟨fun _ => entryOk_of_check hc, fun hn => absurd ho hn⟩
  · have ha : ¬ (List.range s.occupancy).any (fun i => k == slotIndex s.params (s.queue.rd + i)) = true := by
      intro ha
      obtain ⟨i, hi, he⟩ := List.any_eq_true.1 ha
      exact ho ⟨i, List.mem_range.1 hi, by simpa using he⟩
    rw [if_neg ha] at hc
    exact ⟨fun hn => absurd hn ho, fun _ => by simpa using hc⟩

/-- A state with entries queued from read cursor `rd` on. -/
def queued (q rd : Nat) (es : List EntryWord) (s : State) : State :=
  { s with
    params := { s.params with qcap := q }
    queue := {
      slots := (List.range q).map (fun k =>
        match (List.range es.length).find? (fun i => (rd + i) % q == k) with
        | some i => es.getD i 0#64
        | none => 0#64)
      rd := rd, wr := rd + es.length } }

/-- OUT8 of 0x82E8, a register byte. -/
def regEntry : EntryWord := 0x090082E800000005#64

/-- OUT8 of 0xE2E8, a pixel-transfer byte. -/
def pixelEntry : EntryWord := 0x0900E2E8000000F0#64

/-- Capacities of 8 and 16 with the other reset parameters are admitted. -/
theorem params_ok {p : Params} (h : (p.qcap = 2 ^ 3 ∨ p.qcap = 2 ^ 4) ∧ configOk p.pb p.pitch p.vramBytes = true) :
    validParams p := by
  obtain ⟨h | h, hc⟩ := h
  · exact ⟨⟨3, h⟩, by omega, hc⟩
  · exact ⟨⟨4, h⟩, by omega, hc⟩

/-- A state in the middle of its work: a mono rectangle waits, its next unit is the head of a queue that
wraps, the Producer holds an access, a byte is drawn and its page dirty. -/
def working : State :=
  queued 8 6 [pixelEntry, regEntry, regEntry] { monoWaiting with
    cstate := .draining, busy := true, pstate := .waitRoom false [regEntry, pixelEntry]
    fb := [(3, 7#8)], dirty := [0] }

theorem pending_ok : ∀ e ∈ [regEntry, pixelEntry], entryOk e := by
  simp only [List.mem_cons, List.not_mem_nil, or_false, forall_eq_or_imp, forall_eq]
  exact ⟨entryOk_of_check (by decide), entryOk_of_check (by decide)⟩

theorem working_inv : inv working := by
  refine ⟨params_ok (by decide), queueOk_of_check (by decide), ?_, ?_, ?_, ?_, ?_⟩
  · unfold consumerOk; decide
  · exact ⟨(by simp : [regEntry, pixelEntry] ≠ []), (by simp : [regEntry, pixelEntry].length ≤ 4), pending_ok⟩
  · unfold hostOk; decide
  · unfold memoryOk; decide
  · unfold engineOk waitingOk; decide

/-- A completing evaluation, as an equation. -/
theorem next_of_gives {i : Instr} {s : State} {p : State → Bool} (h : gives i s p = true) :
    ∃ t, exec i s = .next t ∧ p t = true := by
  unfold gives at h
  split at h
  · exact ⟨_, by assumption, h⟩
  · cases h
  · cases h

theorem next_of_stepGives {s : State} {p : State → Bool} (h : stepGives s p = true) :
    ∃ t, step s = .next t ∧ p t = true := by
  unfold stepGives at h
  split at h
  · exact ⟨_, by assumption, h⟩
  · cases h
  · cases h

theorem witness_EncodeThenDecodeReturnsTheInstruction :
    (Instr.entryOutWord 0x0086E8#24 0x123#32).wf = true ∧ (Instr.config 4 4096 (2 ^ 24)).wf = true ∧
    (Instr.drainedRead ⟨.port, 0xBEE8#24, .w4⟩).wf = true ∧ (Instr.wNone (.mapped 0xFFFFFF) 0xFF#8).wf = true := by
  decide

theorem witness_DecodeThenEncodeReturnsTheWord :
    decode .entry 0x0A0086E800000123#64 = .ok (.entryOutWord 0x0086E8#24 0x123#32) := by decide

/-- The Host's three inputs, on a framebuffer in its canonical form; a word that runs; a word that waits while
the Consumer, the Producer, the Host or no agent has a step; no input at all. -/
theorem witness_StepRunsTheDecodedInstruction :
    (∀ inp ∈ [Input.hostWrite (2 ^ 24) 7#8, .hostRead 3, .clearDirty 0],
      ({ working with inputs := [inp] } : State).inputs = inp :: [] ∧ Memory.wf working.fb) ∧
    (decode .cmd 0x40F1#64 = .ok (.cmdRect 0xF1#13) ∧ State.reset.heldBack (.cmdRect 0xF1#13) = false) ∧
    (working.heldBack (.in8 0x82E8#16) = true ∧ working.consumerStep = some .dequeueExecute) ∧
    (let s := { State.reset with pstate := .waitRoom false [regEntry] };
      s.heldBack (.in8 0x82E8#16) = true ∧ s.consumerStep = none ∧ s.producerStep = some .enqueue) ∧
    (let s := { State.reset with hstate := .waitStopped, cstate := .stopped };
      s.heldBack .waitIdle = true ∧ s.consumerStep = none ∧ s.producerStep = none ∧ s.hostStep = some .close) ∧
    (State.reset.inputs = [] ∧ State.reset.consumerStep = none ∧ State.reset.producerStep = none ∧
      State.reset.hostStep = none) := by
  decide

theorem witness_FetchedWordRuns :
    decodeTableWord 16 0x40F1 = some (.cmdRect 0xF1#13) ∧ working.heldBack (.cmdRect 0xF1#13) = false := by
  decide

theorem witness_ConstructionMeetsTheInvariant :
    validParams { resetParams with qcap := 16 } ∧ Memory.wf [(3, 7#8), (65535, 1#8)] ∧
    (∀ c ∈ [((3, 7#8) : Host.Cell), (65535, 1#8)], c.1 < resetParams.vramBytes) ∧
    [0, 15].Pairwise (· < ·) ∧ ∀ q ∈ [0, 15], q < pageCount resetParams := by
  refine ⟨params_ok (by decide), by decide, by decide, by decide, by decide⟩

/-- The step draws the first row of the waiting rectangle. -/
theorem witness_StepKeepsMemoryCanonical :
    validParams working.params ∧ memoryOk working ∧
    ∃ t, step working = .next t ∧ (t.fb.length == 5 && t.queue.rd == 7 && t.ex.active) = true :=
  ⟨working_inv.1, working_inv.2.2.2.2.2.1, next_of_stepGives (by decide +kernel)⟩

theorem witness_StepKeepsTheQueueInvariant :
    inv working ∧ ∃ t, step working = .next t ∧ (t.queue.wr - t.queue.rd == 2) = true :=
  ⟨working_inv, next_of_stepGives (by decide +kernel)⟩

theorem witness_StepKeepsTheAgentsInvariants :
    inv { working with inputs := [.word .agent (encode .enqueue).2] } ∧
    ∃ t, step { working with inputs := [.word .agent (encode .enqueue).2] } = .next t ∧
      (t.pstate == .waitRoom false [pixelEntry]) = true :=
  ⟨working_inv, next_of_stepGives (by decide +kernel)⟩

theorem witness_StepKeepsTheEngineInvariant :
    inv working ∧ ∃ t, step working = .next t ∧ (t.ex.active && t.ex.rows == 1) = true :=
  ⟨working_inv, next_of_stepGives (by decide +kernel)⟩

/-- A state with the invariant, and the two states no run reaches. -/
theorem witness_InvariantExcludesTheModelFault :
    inv working ∧
    (let s := { State.reset with cstate := .draining, queue := { State.reset.queue with rd := 1 } };
      s.cstate = .draining ∧ s.queue.wr < s.queue.rd) ∧
    (let s := { holding 9 with pstate := .waitRoom false [regEntry] };
      s.pstate = .waitRoom false (regEntry :: []) ∧ s.params.qcap < s.queue.wr - s.queue.rd) :=
  ⟨working_inv, by decide, by decide⟩

/-- An instruction of each of the three kinds. -/
theorem witness_QueueIsFirstInFirstOut :
    validParams working.params ∧ queueOk working ∧
    (∃ t, exec .enqueue working = .next t ∧ (t.contents == working.contents ++ [regEntry]) = true) ∧
    (∃ t, exec .dequeueExecute working = .next t ∧ (working.contents == pixelEntry :: t.contents) = true) ∧
    ∃ t, exec .wake working = .next t ∧ (t.contents == working.contents) = true :=
  ⟨working_inv.1, working_inv.2.1, next_of_gives (by decide +kernel), next_of_gives (by decide +kernel),
    next_of_gives (by decide +kernel)⟩

/-- A queue of 16 with `n` entries that wraps, and an access to enqueue. -/
def enqueuing (n : Nat) : State :=
  { queued 16 13 (List.replicate n regEntry) State.reset with pstate := .waitRoom false [pixelEntry] }

/-- Occupancies before the enqueue around both marks of a queue of 16, and the last with room; the same queues
with a held access, whose hold `stop` has lifted and has not. -/
theorem witness_EnqueueWithRoom :
    (∀ n ∈ [0, 6, 7, 13, 14, 15],
      validParams (enqueuing n).params ∧ queueOk (enqueuing n) ∧
        (enqueuing n).pstate = .waitRoom false (pixelEntry :: []) ∧
        (enqueuing n).queue.wr - (enqueuing n).queue.rd < (enqueuing n).params.qcap) ∧
    (∀ b : Bool,
      let s := { enqueuing 15 with pstate := .waitRoom true [pixelEntry], stop := b }
      validParams s.params ∧ queueOk s ∧ s.pstate = .waitRoom true (pixelEntry :: []) ∧
        s.queue.wr - s.queue.rd < s.params.qcap ∧ s.stop = b) := by
  have hp : ∀ n ∈ [0, 6, 7, 13, 14, 15], ((enqueuing n).params.qcap = 2 ^ 3 ∨ (enqueuing n).params.qcap = 2 ^ 4) ∧
      configOk (enqueuing n).params.pb (enqueuing n).params.pitch (enqueuing n).params.vramBytes = true := by decide
  have hq : ∀ n ∈ [0, 6, 7, 13, 14, 15], queueCheck (enqueuing n) = true := by decide +kernel
  have hn : ∀ n ∈ [0, 6, 7, 13, 14, 15],
      (enqueuing n).queue.wr - (enqueuing n).queue.rd < (enqueuing n).params.qcap := by decide
  have h15 : (15 : Nat) ∈ [0, 6, 7, 13, 14, 15] := by decide
  exact ⟨fun n h => ⟨params_ok (hp n h), queueOk_of_check (hq n h), rfl, hn n h⟩,
    fun b => ⟨params_ok (hp 15 h15), queueOk_of_check (hq 15 h15), rfl, hn 15 h15, rfl⟩⟩

/-- The four clauses: found full, stopped while it holds, still full, room again. -/
theorem witness_EnqueueOnAFullQueue :
    let full := queued 8 5 (List.replicate 8 regEntry) State.reset
    let room := queued 8 5 (List.replicate 7 regEntry) State.reset
    validParams full.params ∧ queueOk full ∧ validParams room.params ∧ queueOk room ∧
    full.queue.wr - full.queue.rd = full.params.qcap ∧ room.queue.wr - room.queue.rd < room.params.qcap ∧
    (∀ held : Bool, ({ full with pstate := .waitRoom held [regEntry, pixelEntry] } : State).pstate =
      .waitRoom held (regEntry :: [pixelEntry])) ∧
    (∀ b : Bool, ({ full with stop := b } : State).stop = b) ∧ room.stop = false := by
  refine ⟨params_ok (by decide), queueOk_of_check (by decide), params_ok (by decide), queueOk_of_check (by decide),
    by decide, by decide, fun _ => rfl, fun _ => rfl, rfl⟩

theorem witness_DequeueExecutesTheHeadEntry :
    validParams working.params ∧ queueOk working ∧ working.cstate = .draining ∧ working.queue.rd < working.queue.wr ∧
    decode .entry (working.slot (working.queue.rd &&& (working.params.qcap - 1))) =
      .ok (.entryOutByte 0xE2E8#24 0xF0#32) :=
  ⟨working_inv.1, working_inv.2.1, by decide⟩

theorem witness_WakeStartsDraining :
    let s := { holding 1 with wakePending := true }
    s.cstate = .idle ∧ s.wakePending = true ∧ s.stop = false := by decide

theorem witness_EmptyReturnsToIdle :
    let s := { State.reset with cstate := .draining, busy := true }
    s.cstate = .draining ∧ s.queue.wr = s.queue.rd := by decide

theorem witness_StopEndsTheConsumer :
    (let s := { holding 2 with wakePending := true, stop := true };
      s.cstate = .idle ∧ s.wakePending = true ∧ s.stop = true) ∧
    ({ State.reset with cstate := .stopped } : State).cstate = .stopped := by decide

/-- Draining with one entry, Draining and empty, Idle and woken, Idle. -/
theorem witness_DrainingHasOneEnabledStep :
    let one := { queued 8 0 [regEntry] State.reset with cstate := .draining, busy := true }
    let none := { State.reset with cstate := .draining, busy := true }
    let woken := { queued 8 0 [regEntry] State.reset with wakePending := true }
    queueOk one ∧ one.cstate = .draining ∧ 0 < one.occupancy ∧
    queueOk none ∧ none.cstate = .draining ∧ none.occupancy = 0 ∧
    queueOk woken ∧ woken.consumerStep = some .wake ∧
    queueOk State.reset ∧ State.reset.consumerStep = Option.none := by
  refine ⟨queueOk_of_check (by decide), by decide, by decide, queueOk_of_check (by decide), by decide, by decide,
    queueOk_of_check (by decide), by decide, queueOk_of_check (by decide), by decide⟩

/-- One completing instruction for each clause. -/
theorem witness_SignalsChangeOnlyByTheirOwners :
    (∃ t, exec .close State.reset = .next t ∧ (t.stop != State.reset.stop) = true) ∧
    (∃ t, exec .wake { holding 1 with wakePending := true } = .next t ∧ (!t.wakePending && t.busy) = true) ∧
    (∃ t, exec .dequeueExecute working = .next t ∧ (t.queue.rd != working.queue.rd) = true) ∧
    (∃ t, exec .enqueue working = .next t ∧ (t.queue.wr != working.queue.wr) = true) ∧
    (∃ t, exec .close { State.reset with cstate := .stopped } = .next t ∧ (t.cstate == .stopped) = true) ∧
    ∃ t, exec (.config 2 640 65536) State.reset = .next t ∧ (t.params != State.reset.params) = true :=
  ⟨next_of_gives (by decide), next_of_gives (by decide), next_of_gives (by decide +kernel),
    next_of_gives (by decide), next_of_gives (by decide), next_of_gives (by decide)⟩

/-- Ready, before close, with room for one and with none; a first byte that is a pixel-transfer byte (the
last of the window, the first of PIX_TRANS) and one that is not (the first past the window, a register). -/
theorem witness_WriteAccessesEnqueueTheirEntries :
    let room := queued 8 3 (List.replicate 7 regEntry) State.reset
    let full := queued 8 3 (List.replicate 8 regEntry) State.reset
    (validParams room.params ∧ queueOk room ∧ room.pstate = .ready ∧ room.cstate ≠ .stopped ∧
      room.queue.wr - room.queue.rd < room.params.qcap) ∧
    (validParams full.params ∧ queueOk full ∧ full.pstate = .ready ∧ full.cstate ≠ .stopped ∧
      full.queue.wr - full.queue.rd = full.params.qcap) ∧
    (∃ lane, decodeAddr (.mapped (0x007FFF#24).toNat) = .pixel lane) ∧
    (¬ ∃ lane, decodeAddr (.mapped (0x008000#24).toNat) = .pixel lane) ∧
    (∃ lane, decodeAddr (.port 0xE2E8#16) = .pixel lane) ∧ (¬ ∃ lane, decodeAddr (.port 0xE2EC#16) = .pixel lane) := by
  refine ⟨⟨params_ok (by decide), queueOk_of_check (by decide), by decide⟩,
    ⟨params_ok (by decide), queueOk_of_check (by decide), by decide⟩, ?_, ?_, ?_, ?_⟩
  · exact ⟨3#2, by decide⟩
  · rintro ⟨lane, h⟩; revert lane; decide
  · exact ⟨0#2, by decide⟩
  · rintro ⟨lane, h⟩; revert lane; decide

/-- A synchronous read of four bytes across the window's end, and a drained one that begins below a
register's slot, on an empty and on a non-empty queue. -/
theorem witness_ReadAccessesReturnOrWait :
    (working.pstate ≠ .ready ∧ State.reset.pstate = .ready ∧ State.reset.cstate ≠ .stopped) ∧
    (∀ k < 4, ∀ r lane, decodeAddr (.mapped ((0x007FFE#24).toNat + k)) = .reg r lane → r = .cmd) ∧
    (∃ k < 4, ∃ r lane, decodeAddr (.port (0x82E5#16 + BitVec.ofNat 16 k)) = .reg r lane ∧ r ≠ .cmd) ∧
    State.reset.occupancy = 0 ∧ 0 < (holding 1).occupancy ∧ (holding 1).pstate = .ready := by
  refine ⟨by decide, ?_, ⟨3, by decide, .curY, 0#2, by decide⟩, by decide⟩
  intro k hk r lane h
  have : k = 0 ∨ k = 1 ∨ k = 2 ∨ k = 3 := by omega
  rcases this with rfl | rfl | rfl | rfl <;> revert r lane h
  · exact fun r lane h => by cases h.symm.trans (by decide : decodeAddr (.mapped 0x7FFE) = .pixel 2#2)
  · exact fun r lane h => by cases h.symm.trans (by decide : decodeAddr (.mapped 0x7FFF) = .pixel 3#2)
  · exact fun r lane h => by cases h.symm.trans (by decide : decodeAddr (.mapped 0x8000) = .none)
  · exact fun r lane h => by cases h.symm.trans (by decide : decodeAddr (.mapped 0x8001) = .none)

/-- Drained by an empty queue, by `stop`, and not drained. -/
theorem witness_WaitingReadReturnsWhenDrained :
    let a : Access := ⟨.port, 0x82E8#24, .w2⟩
    (let s := { State.reset with pstate := .waitDrain a }; s.pstate = .waitDrain a ∧ s.occupancy = 0) ∧
    (let s := { holding 1 with pstate := .waitDrain a, stop := true };
      s.pstate = .waitDrain a ∧ s.stop = true) ∧
    (let s := { holding 1 with pstate := .waitDrain a };
      s.pstate = .waitDrain a ∧ 0 < s.occupancy ∧ s.stop = false) := by decide

theorem witness_RegisterReadsReturnTheirLane :
    State.reset.pstate = .ready ∧ State.reset.cstate ≠ .stopped ∧ State.reset.occupancy = 0 := by decide

theorem witness_SynchronousReadsReturnAtOnce :
    (holding 8).pstate = .ready ∧ (holding 8).cstate ≠ .stopped ∧ noneAddrWf (.mapped 0xFFFFFF) = true ∧
    noneAddrWf (.port 0#16) = true := by decide

/-- Empty, full and partly full queues, Ready. -/
theorem witness_StatusPollingIsSound :
    ∀ es ∈ [[], [regEntry], List.replicate 8 regEntry],
      validParams (queued 8 5 es State.reset).params ∧ queueOk (queued 8 5 es State.reset) ∧
        (queued 8 5 es State.reset).pstate = .ready ∧ (queued 8 5 es State.reset).cstate ≠ .stopped := by
  have hq : ∀ es ∈ [[], [regEntry], List.replicate 8 regEntry], queueCheck (queued 8 5 es State.reset) = true := by
    decide
  exact fun es h => ⟨params_ok ⟨.inl rfl, (by decide : configOk 1 1024 65536 = true)⟩, queueOk_of_check (hq es h), rfl,
    fun hc => by cases hc⟩

/-- The six clauses. -/
theorem witness_OperationsThatCannotBeIssuedAreRefused :
    (isAccess (.out8 0x82E8#16 5#32) = true ∧ ({ State.reset with cstate := .stopped } : State).cstate = .stopped) ∧
    (isAccess (.in8 0x82E8#16) = true ∧ working.cstate ≠ .stopped ∧ working.pstate ≠ .ready ∧
      ∀ a, working.pstate ≠ .waitDrain a) ∧
    (⟨.port, 0x82E8#24, .w1⟩ : Access).isSynchronous = false ∧
    ((⟨.port, 0x9AE8#24, .w1⟩ : Access).isSynchronous = true ∧
      State.reset.pstate ≠ .waitDrain ⟨.port, 0x9AE8#24, .w1⟩) ∧
    (State.reset.hstate = .ready ∧ ({ working with hstate := .waitIdle } : State).hstate = .waitIdle ∧
      0 < (holding 1).occupancy ∧ working.cstate = .draining) ∧
    (State.reset.occupancy = 0 ∧ State.reset.cstate ≠ .draining ∧
      configOk 3 1024 65536 = false ∧ configOk 1 0 65536 = false ∧ configOk 1 4097 65536 = false ∧
      configOk 1 1024 32768 = false ∧ configOk 1 1024 33554432 = false) := by
  refine ⟨by decide, ⟨by decide, by decide, by decide, fun a h => by cases h⟩, by decide, by decide, by decide, by decide⟩

theorem witness_ProducerAndHostCallsWriteNoRegister :
    (∃ t, exec (.out8 0x82E8#16 5#32) State.reset = .next t ∧ (t.queue.wr == 1) = true) ∧
    (∃ t, exec .enqueue working = .next t ∧ (t.queue.wr == 10) = true) ∧
    ∃ t, exec .waitIdle (holding 1) = .next t ∧ (t.hstate == .waitIdle) = true :=
  ⟨next_of_gives (by decide), next_of_gives (by decide), next_of_gives (by decide)⟩

/-- The clauses, the first by each of its three reasons. -/
theorem witness_WaitIdleHoldsUntilIdle :
    (State.reset.hstate = .ready ∧ State.reset.occupancy = 0 ∧ State.reset.cstate ≠ .draining) ∧
    (({ holding 1 with cstate := .stopped } : State).cstate = .stopped ∧
      ({ holding 1 with stop := true } : State).stop = true) ∧
    (let s := holding 1;
      s.hstate = .ready ∧ ¬ ((s.occupancy = 0 ∧ s.cstate ≠ .draining) ∨ s.cstate = .stopped ∨ s.stop = true)) ∧
    (let s := { State.reset with hstate := .waitIdle };
      s.hstate = .waitIdle ∧ s.occupancy = 0 ∧ s.cstate ≠ .draining) ∧
    (∀ h ∈ [HState.waitIdle, .waitBoth],
      let s := { State.reset with hstate := h, cstate := .draining };
      s.hstate = h ∧ ¬ ((s.occupancy = 0 ∧ s.cstate ≠ .draining) ∨ s.cstate = .stopped ∨ s.stop = true)) ∧
    (let s := { holding 1 with hstate := .waitBoth, stop := true }; s.hstate = .waitBoth ∧ s.stop = true) ∧
    (let s := { holding 1 with hstate := .waitStopped, stop := true }; s.hstate = .waitStopped) := by
  decide

theorem witness_ReportUtilizationReturnsANumber :
    State.reset.hstate = .ready ∧ ∀ h ∈ [HState.waitIdle, .waitStopped, .waitBoth],
      ({ State.reset with hstate := h } : State).hstate ≠ .ready := by
  decide

/-- Every pixel size, the ends of both ranges, a size kept and a size changed. -/
theorem witness_ConfigSetsTheParameters :
    State.reset.hstate = .ready ∧ State.reset.occupancy = 0 ∧ State.reset.cstate ≠ .draining ∧
    (∀ pb ∈ [1, 2, 4], pb = 1 ∨ pb = 2 ∨ pb = 4) ∧ (∀ pitch ∈ [1, 4096], 1 ≤ pitch ∧ pitch ≤ 4096) ∧
    (∀ k ∈ [16, 24], 16 ≤ k ∧ k ≤ 24) ∧ State.reset.params.vramBytes = 2 ^ 16 ∧
    State.reset.params.vramBytes ≠ 2 ^ 24 := by
  decide

/-- Each position of the Host, before and after the Consumer is Stopped. -/
theorem witness_CloseSetsStopAndWaits :
    ∀ h ∈ [HState.ready, .waitIdle, .waitStopped, .waitBoth],
      (let s := { State.reset with hstate := h }; s.hstate = h ∧ s.cstate ≠ .stopped) ∧
      (let s := { State.reset with hstate := h, cstate := .stopped }; s.hstate = h ∧ s.cstate = .stopped) := by
  decide

/-- The lanes of a 16-bit register: 0 and 1 stored, 2 and 3 unused; addresses of no register. -/
theorem witness_TwelveBitRegisterWrites : ∀ lane ∈ [0#2, 1#2], BitVec.toNat lane < 2 := by decide

theorem witness_FourteenBitRegisterWrites : ∀ lane ∈ [0#2, 1#2], BitVec.toNat lane < 2 := by decide

theorem witness_MergedRegisterWrites : ∀ lane ∈ [0#2, 1#2], BitVec.toNat lane < 2 := by decide

theorem witness_UnusedLanesAndNoneIgnoreWrites :
    (∀ lane ∈ [2#2, 3#2], 2 ≤ BitVec.toNat lane) ∧ decodeAddr (.mapped 0x8000) = .none ∧
    decodeAddr (.mapped 0x10000) = .none ∧ decodeAddr (.port 0x82EC#16) = .none := by decide

theorem witness_LatchedWordsCommitOnTheHighByte :
    (∀ lane ∈ [0#2, 2#2], lane ∈ [0#2, 2#2]) ∧ ∀ lane ∈ [1#2, 3#2], lane ∈ [1#2, 3#2] := by decide

/-- No primitive waits; one waits for a unit of four bytes and has none or two of them. -/
theorem witness_PixelBytesAreStagedOrIgnored :
    State.reset.ex.active = false ∧
    (∀ n ∈ [0, 2],
      let s := { monoWaiting with ex := { monoWaiting.ex with u := 4 }, regs := { monoWaiting.regs with stageCnt := n } };
      s.ex.active = true ∧ s.regs.stageCnt + 1 < s.ex.u ∧ s.ex.u ≤ 4) := by
  decide

/-- The byte that completes a unit of one byte, and of four. -/
theorem witness_CompleteUnitIsDelivered :
    (monoWaiting.ex.active = true ∧ monoWaiting.regs.stageCnt + 1 = monoWaiting.ex.u ∧ monoWaiting.ex.u ≤ 4) ∧
    (let s := { monoWaiting with ex := { monoWaiting.ex with u := 4 }, regs := { monoWaiting.regs with stageCnt := 3 } };
      s.ex.active = true ∧ s.regs.stageCnt + 1 = s.ex.u ∧ s.ex.u ≤ 4) := by
  decide

/-- First and last items of units, and both values of BYTE_SWAP. -/
theorem witness_FeedUnitItemsAreInOrder :
    (∀ k ∈ [0, 31], k < 8 * [1#8, 2#8, 3#8, 4#8].length) ∧
    (∀ pb ∈ [1, 2, 4], (pb = 1 ∨ pb = 2 ∨ pb = 4) ∧ 0 < [1#8, 2#8, 3#8, 4#8].length / pb) ∧
    (0x1000#16).getLsbD 12 = true ∧ (0x0FFF#16).getLsbD 12 = false := by
  decide

/-- CPU-fed words of every class on registers with nonzero extents. -/
theorem witness_CpuFedCommandsWaitForData :
    (∀ k : BitVec 3, (k ++ 0x01A0#13 : Half).getLsbD 8 = true) ∧
    (1#3 ++ 0x01A#9 ++ 0#1 ++ 0#3 : Half).getLsbD 8 = true ∧ (1#3 ++ 0x01A#9 ++ 1#1 ++ 0#3 : Half).getLsbD 8 = true ∧
    monoWaiting.regs.majAxisPcnt ≠ 0#12 ∧ monoWaiting.regs.mf[0] ≠ 0#12 := by
  decide

/-- Primitives of every class, with more than one and with one pixel left in the row; a Line by a radial step
and by both Bresenham steps; tile phases that wrap in both directions. -/
theorem witness_StepPlotsThenAdvances :
    (∀ cls ∈ [Cls.line, .rect, .blit, .pat], ∀ left ∈ [1, 2],
      let e := { monoWaiting.ex with cls := cls, left := left }
      e.cls = cls ∧ 0 < e.left ∧ (1 < e.left ∨ e.left = 1)) ∧
    (∀ d : BitVec 3, let c : Half := 1#3 ++ (0#5 ++ d ++ 0#1) ++ 1#1 ++ 0#3
      c.getLsbD 3 = true ∧ c.extractLsb' 5 3 = d) ∧
    (1#3 ++ 0x00A0#13 : Half).getLsbD 3 = false ∧
    ((4#12).toNat : Int) ≤ (4#16).toInt ∧ (0xFFFF#16).toInt < ((4#12).toNat : Int) ∧
    ((0#3).toNat : Int) = (((7#3).toNat : Int) + 1) % 8 ∧ ((7#3).toNat : Int) = (((0#3).toNat : Int) + -1) % 8 := by
  decide

/-- Without feed; fed with a zero width; fed with a zero row count. -/
theorem witness_RectangleRestingValues :
    (2#3 ++ 0x00B1#13 : Half).getLsbD 8 = false ∧ (2#3 ++ 0x01B1#13 : Half).getLsbD 8 = true ∧
    State.reset.regs.majAxisPcnt = 0#12 ∧
    (let r := { lineRegs with mf := lineRegs.mf.set 0 0#12 }; r.majAxisPcnt ≠ 0#12 ∧ r.mf[0] = 0#12) := by
  decide

theorem witness_BlitAndPatternRestingValues :
    (6#3 ++ 0x00B1#13 : Half).getLsbD 8 = false ∧ (7#3 ++ 0x00B1#13 : Half).getLsbD 8 = false ∧
    (7#3 ++ 0x01B1#13 : Half).getLsbD 8 = true ∧ State.reset.regs.majAxisPcnt = 0#12 ∧
    (let r := { lineRegs with mf := lineRegs.mf.set 0 0#12 }; r.majAxisPcnt ≠ 0#12 ∧ r.mf[0] = 0#12) := by
  decide

/-- Every direction, without feed, by both rows; and a fed Line of no pixels. -/
theorem witness_RadialLineRestingValues :
    (∀ d : BitVec 3, let c : Half := 1#3 ++ (0#5 ++ d ++ 1#5 <<< 3)
      c.getLsbD 3 = true ∧ c.getLsbD 8 = false ∧ c.extractLsb' 5 3 = d) ∧
    (∀ d : BitVec 3, let c : Half := 1#3 ++ (0#5 ++ d ++ 0#1) ++ 1#1 ++ 0#3
      c.getLsbD 3 = true ∧ c.getLsbD 8 = false ∧ c.extractLsb' 5 3 = d) ∧
    State.reset.regs.majAxisPcnt = 0#12 := by
  decide

/-- A Bresenham word without feed, with the move the statement names. -/
theorem witness_BresenhamLineRestingValues :
    (1#3 ++ 0x00A0#13 : Half).getLsbD 3 = false ∧ (1#3 ++ 0x00A0#13 : Half).getLsbD 8 = false ∧
    (1#3 ++ 0x00E#9 ++ 0#1 ++ 0#3 : Half).getLsbD 3 = false ∧ (1#3 ++ 0x00E#9 ++ 0#1 ++ 0#3 : Half).getLsbD 8 = false ∧
    ∃ move : Half × Half × Half → Half × Half × Half, ∀ x y err : Half, move (x, y, err) =
      if (lineRegs.majAxisPcnt.toNat : Int) ≤ err.toInt then (x + 1#16, y + 1#16, err + lineRegs.destxDiastp)
      else if (1#3 ++ 0x00A0#13 : Half).getLsbD 6 = true then (x, y + 1#16, err + lineRegs.destyAxstp)
      else (x + 1#16, y, err + lineRegs.destyAxstp) :=
  ⟨by decide, by decide, by decide, by decide, fun p =>
    if (lineRegs.majAxisPcnt.toNat : Int) ≤ p.2.2.toInt then (p.1 + 1#16, p.2.1 + 1#16, p.2.2 + lineRegs.destxDiastp)
    else if (1#3 ++ 0x00A0#13 : Half).getLsbD 6 = true then (p.1, p.2.1 + 1#16, p.2.2 + lineRegs.destyAxstp)
    else (p.1 + 1#16, p.2.1, p.2.2 + lineRegs.destyAxstp), fun _ _ _ => rfl⟩

/-- A Line that draws: byte 0 changes, byte 9 lies outside a clip of columns and rows 0 to 8. -/
theorem witness_ClipConfinesEveryWrite :
    let r := { lineRegs with mf := (lineRegs.mf.set 3 8#12).set 4 8#12 }
    Memory.wf (small r 16 [(9, 7#8)]).fb ∧
    (∃ t, exec (.cmdLine 0x00A0#13) (small r 16 [(9, 7#8)]) = .next t ∧
      (t.fb.read 0 == 0x0F#8 && t.fb.read 9 == 7#8) = true) ∧
    ∃ t, exec (.wPixTrans .port 0#2 0xF0#8) monoWaiting = .next t ∧ (t.fb.read 82 == 0xFF#8) = true :=
  ⟨by decide, next_of_gives (by decide +kernel), next_of_gives (by decide +kernel)⟩

theorem witness_ChangedBytesAreMarkedDirty :
    validParams (small lineRegs 16 []).params ∧ Memory.wf (small lineRegs 16 []).fb ∧
    (∃ t, exec (.cmdLine 0x00A0#13) (small lineRegs 16 []) = .next t ∧ (t.fb.read 0 != 0#8 && t.dirty == [0]) = true) ∧
    ∃ t, exec (.wPixTransWindow 0x7FFF#15 0xF0#8) monoWaiting = .next t ∧ (t.dirty == [0]) = true :=
  ⟨params_ok (by decide), by decide, next_of_gives (by decide +kernel), next_of_gives (by decide +kernel)⟩

theorem witness_PassThroughMixLeavesTheFramebuffer :
    let r := { lineRegs with frgdMix := 0x23#16, bkgdMix := 0x03#16 }
    validParams (small r 16 [(0, 7#8)]).params ∧ Memory.wf (small r 16 [(0, 7#8)]).fb ∧
    r.frgdMix.extractLsb' 0 4 = 3#4 ∧ r.bkgdMix.extractLsb' 0 4 = 3#4 ∧
    ∃ t, exec (.cmdLine 0x00A0#13) (small r 16 [(0, 7#8)]) = .next t ∧ (t.dirty == [0]) = true :=
  ⟨params_ok (by decide), by decide, by decide, by decide, next_of_gives (by decide +kernel)⟩

/-- A rectangle of four by two pixels inside the clip: (0, 0) is one of its pixels. -/
theorem witness_RectangleFillDrawsItsPixels :
    let r := { lineRegs with mf := lineRegs.mf.set 0 2#12 }
    (2#3 ++ 0x00B1#13 : Half).getLsbD 8 = false ∧ validParams (small r 16 []).params ∧
    Memory.wf (small r 16 []).fb ∧ r.frgdMix.extractLsb' 5 2 = 1#2 ∧ r.frgdMix.extractLsb' 0 4 = 7#4 ∧
    r.wrtMask = 0xFFFFFFFF#32 ∧ r.mf[14].extractLsb' 7 2 = 0#2 ∧
    0 < r.majAxisPcnt.toNat ∧ 0 < r.mf[0].toNat ∧
    (r.mf[2].toNat : Int) ≤ (0#16).toInt ∧ (0#16).toInt ≤ (r.mf[4].toNat : Int) :=
  ⟨by decide, params_ok (by decide), by decide, by decide⟩

theorem witness_ResetRegistersDrawNothing : State.reset.regs = Regs.reset := rfl

/-- A position inside the clip whose compare passes, one outside it, and a gate that is closed; without and
with a source read. -/
theorem witness_PixelFollowsThePipeline :
    validParams (small lineRegs 16 [(0, 7#8)]).params ∧ Memory.wf (small lineRegs 16 [(0, 7#8)]).fb ∧
    lineRegs.inClip 0#16 0#16 = true ∧ lineRegs.inClip 0xFFFF#16 0#16 = false ∧
    cmpPass lineRegs.cmpMode 1 lineRegs.colorCmp 0x0F#32 = true ∧
    cmpPass 1#2 1 lineRegs.colorCmp 0x0F#32 = false ∧
    (small lineRegs 16 [(0, 7#8)]).memRead 0 &&& lineRegs.rdMask &&& BitVec.ofNat 32 (2 ^ (8 * 1) - 1) = 7#32 :=
  ⟨params_ok (by decide), by decide⟩

/-! The statements whose only hypothesis is that a row stands in their list: the list's first row. -/

theorem witness_MultifunctionCommitWritesOneSlot (rest : List (Instr × BitVec 4)) :
    (Instr.mfMinAxisPcnt 0xFFF#12, 0#4) ∈ (Instr.mfMinAxisPcnt 0xFFF#12, 0#4) :: rest := List.mem_cons_self

theorem witness_EntriesExecuteTheirBytesInOrder (rest : List (Instr × List ByteAddr)) :
    (Instr.entryWriteByte 0xE2E8#24 0xAA#32, [ByteAddr.mapped (0xE2E8#24).toNat]) ∈
      (Instr.entryWriteByte 0xE2E8#24 0xAA#32, [ByteAddr.mapped (0xE2E8#24).toNat]) :: rest := List.mem_cons_self

theorem witness_NoOpCommandsOnlyAbandon (rest : List (Instr × BitVec 3)) :
    (Instr.cmdNop 0x1FFF#13, 0#3) ∈ (Instr.cmdNop 0x1FFF#13, 0#3) :: rest := List.mem_cons_self

theorem witness_RasterAluTruthTable (rest : List (BitVec 4 × Bool × Bool × Bool × Bool)) :
    (0x0#4, true, false, true, false) ∈ (0x0#4, true, false, true, false) :: rest := List.mem_cons_self

theorem witness_MixRowsComputeTheirFunction (rest : List (Instr × Bool × Bool × Bool × Bool)) :
    (Instr.mixNotD 0#12, true, false, true, false) ∈ (Instr.mixNotD 0#12, true, false, true, false) :: rest :=
  List.mem_cons_self

theorem witness_SelectorSourceAndCompareRows (rest : List (Instr × Bool)) :
    (Instr.mixselAlwaysFg 0#4 0#6, true) ∈ (Instr.mixselAlwaysFg 0#4 0#6, true) :: rest := List.mem_cons_self

end Sys2Proof.Tests
end

/-! # What one step runs, the invariant at construction, and the memory along a step

The rules for `step`, one per form of the next input; the invariant part by part for a constructed state; and
the memory invariant carried through everything `Change` lists. -/

namespace Sys2Proof.Machine

open Sys2Proof

/-! ## Which action a step takes -/

theorem nextAction_of_cons {s : State} {inp : Input} {rest : List Input} (hi : s.inputs = inp :: rest) :
    s.nextAction = s.inputAction rest inp := by
  unfold State.nextAction
  rw [hi]

theorem step_of_run {s t : State} {i : Instr} (h : s.nextAction = .run i t) : step s = exec i t := by
  unfold step
  rw [h]

theorem step_of_goto {s t : State} (h : s.nextAction = .goto t) : step s = .next t := by
  unfold step
  rw [h]

theorem step_hostWrite {s : State} {a : Nat} {b : Byte} {rest : List Input}
    (hi : s.inputs = .hostWrite a b :: rest) : step s = .next ((s.withInputs rest).hostWrite a b) :=
  step_of_goto (nextAction_of_cons hi)

theorem step_hostRead {s : State} {a : Nat} {rest : List Input} (hi : s.inputs = .hostRead a :: rest) :
    step s = .next ((s.withInputs rest).hostRead a) :=
  step_of_goto (nextAction_of_cons hi)

theorem step_clearDirty {s : State} {page : Nat} {rest : List Input} (hi : s.inputs = .clearDirty page :: rest) :
    step s = .next ((s.withInputs rest).clearDirty page) :=
  step_of_goto (nextAction_of_cons hi)

/-- A word that decodes and is not held back runs, on the state it was taken from. -/
theorem step_word {s : State} {sp : WordSpace} {w : EntryWord} {rest : List Input} {i : Instr}
    (hi : s.inputs = .word sp w :: rest) (hd : decode sp w = .ok i) (hb : s.heldBack i = false) :
    step s = exec i (s.withInputs rest) := by
  apply step_of_run
  rw [nextAction_of_cons hi]
  simp [State.inputAction, hd, hb]

/-- The inputs leave the step to the agents: there are none, or the first is a word that has to wait
(log 2). -/
def State.agentsTurn (s : State) : Prop :=
  s.inputs = [] ∨ ∃ sp w rest i, s.inputs = .word sp w :: rest ∧ decode sp w = .ok i ∧ s.heldBack i = true

theorem nextAction_of_agentsTurn {s : State} (h : s.agentsTurn) : s.nextAction = s.ownAction := by
  rcases h with hi | ⟨sp, w, rest, i, hi, hd, hb⟩
  · unfold State.nextAction
    rw [hi]
  · rw [nextAction_of_cons hi]
    simp [State.inputAction, hd, hb]

theorem step_of_ownStep {s : State} (h : s.agentsTurn) {j : Instr} (hj : s.ownStep = some j) :
    step s = exec j s := by
  apply step_of_run
  rw [nextAction_of_agentsTurn h, State.ownAction, hj]

theorem step_of_no_ownStep {s : State} (h : s.agentsTurn) (hj : s.ownStep = none) : step s = .next s := by
  apply step_of_goto
  rw [nextAction_of_agentsTurn h, State.ownAction, hj]

/-- The agents' order: Consumer, Producer, Host. -/
theorem ownStep_of_consumer {s : State} {j : Instr} (hc : s.consumerStep = some j) : s.ownStep = some j := by
  simp [State.ownStep, hc]

theorem ownStep_of_producer {s : State} {j : Instr} (hc : s.consumerStep = none)
    (hp : s.producerStep = some j) : s.ownStep = some j := by
  simp [State.ownStep, hc, hp]

theorem ownStep_of_host {s : State} (hc : s.consumerStep = none) (hp : s.producerStep = none) :
    s.ownStep = s.hostStep := by
  simp [State.ownStep, hc, hp]

theorem mem_clearDirty {s : State} {page q : Nat} : q ∈ (s.clearDirty page).dirty ↔ q ∈ s.dirty ∧ q ≠ page := by
  simp [State.clearDirty]

/-- Settles O4: one rule of `step` for each form of the inputs. -/
theorem stepRunsTheDecodedInstruction : Obligations.StepRunsTheDecodedInstruction := by
  intro s
  refine ⟨?hostWrite, ?hostRead, ?clearDirty, ?word, ?agents⟩
  case hostWrite =>
    intro a b rest hi hw
    refine ⟨s.fb.write (a % s.params.vramBytes) b, step_hostWrite hi, ?_, fun q hq => ?_⟩
    · rw [Memory.read_write hw, if_pos rfl]
    · rw [Memory.read_write hw, if_neg hq]
  case hostRead => exact fun a rest hi => step_hostRead hi
  case clearDirty =>
    exact fun page rest hi => ⟨(s.clearDirty page).dirty, step_clearDirty hi, fun q => mem_clearDirty⟩
  case word => exact fun sp w rest i => step_word
  case agents =>
    intro h
    refine ⟨fun j hc => step_of_ownStep h (ownStep_of_consumer hc),
      fun j hc hp => step_of_ownStep h (ownStep_of_producer hc hp), fun j hc hp hh => ?_, fun hc hp hh => ?_⟩
    · exact step_of_ownStep h ((ownStep_of_host hc hp).trans hh)
    · exact step_of_no_ownStep h ((ownStep_of_host hc hp).trans hh)

/-! ## Words of the opcode table -/

theorem decode_of_decodeTableWord {nbits w : Nat} {i : Instr} (h : decodeTableWord nbits w = some i) :
    decode (tableWord nbits w).1 (tableWord nbits w).2 = .ok i := by
  unfold decodeTableWord at h
  split at h
  · cases h
  · cases hd : decode (tableWord nbits w).1 (tableWord nbits w).2 with
    | ok j => rw [hd] at h; exact congrArg Except.ok (Option.some.inj h)
    | error e => rw [hd] at h; cases h

/-- Whether an input has to wait is decided by the agents, not by the other inputs. -/
@[simp] theorem heldBack_withFetchWord (s : State) (nbits w : Nat) (i : Instr) :
    (s.withFetchWord nbits w).heldBack i = s.heldBack i := rfl

@[simp] theorem withFetchWord_inputs (s : State) (nbits w : Nat) :
    (s.withFetchWord nbits w).inputs = .word (tableWord nbits w).1 (tableWord nbits w).2 :: s.inputs := rfl

/-- Taking the placed word leaves the state it was placed in. -/
@[simp] theorem withFetchWord_withInputs (s : State) (nbits w : Nat) :
    (s.withFetchWord nbits w).withInputs s.inputs = s := rfl

/-- Settles O5: the placed word stands at the head of the inputs, and `step_word` runs it. -/
theorem fetchedWordRuns : Obligations.FetchedWordRuns := by
  intro s nbits w i hd hb
  have hrun := step_word (withFetchWord_inputs s nbits w) (decode_of_decodeTableWord hd)
    ((heldBack_withFetchWord s nbits w i).trans hb)
  rwa [withFetchWord_withInputs] at hrun

/-! ## The invariant at construction -/

section Construction

variable (p : Params) (picture : Memory) (pages : List Nat)

theorem construct_slot (k : Nat) : (State.construct p picture pages).slot k = 0#64 := by
  simp only [State.slot, State.construct, List.getD_eq_getElem?_getD, List.getElem?_replicate]
  split <;> rfl

theorem construct_not_occupied (k : Nat) : ¬ (State.construct p picture pages).occupied k := by
  rintro ⟨i, hi, -⟩
  exact absurd hi (Nat.not_lt_zero i)

/-- The constructed queue: both cursors 0, no slot occupied and every slot Invalid. -/
theorem construct_queueOk : queueOk (State.construct p picture pages) := by
  refine ⟨List.length_replicate, Nat.le_refl 0, Nat.zero_le _, fun k _ => ⟨fun ho => ?_, fun _ => ?_⟩⟩
  · exact absurd ho (construct_not_occupied p picture pages k)
  · exact construct_slot p picture pages k

theorem construct_consumerOk : consumerOk (State.construct p picture pages) := by
  simp [consumerOk, State.construct, State.occupancy]

theorem construct_producerOk : producerOk (State.construct p picture pages) := trivial

theorem construct_hostOk : hostOk (State.construct p picture pages) := by
  simp [hostOk, State.construct]

theorem construct_engineOk : engineOk (State.construct p picture pages) := by
  simp [engineOk, State.construct, Ex.reset, Regs.reset]

end Construction

theorem construct_inv {p : Params} {picture : Memory} {pages : List Nat} (hp : validParams p)
    (hm : memoryOk (State.construct p picture pages)) : inv (State.construct p picture pages) :=
  ⟨hp, construct_queueOk _ _ _, construct_consumerOk _ _ _, construct_producerOk _ _ _, construct_hostOk _ _ _,
    hm, construct_engineOk _ _ _⟩

theorem resetParams_valid : validParams resetParams := by
  refine ⟨⟨3, rfl⟩, Nat.le_refl 8, ?_⟩
  decide

theorem reset_memoryOk : memoryOk State.reset :=
  ⟨reset_fb_wf, List.forall_mem_nil _, List.Pairwise.nil, List.forall_mem_nil _⟩

/-- Settles O7: every part but the memory holds by the constructed values, and the memory's is what the free
contents are asked for. -/
theorem constructionMeetsTheInvariant : Obligations.ConstructionMeetsTheInvariant :=
  ⟨construct_inv resetParams_valid reset_memoryOk,
    fun _ _ _ hp hw hlt hrise hpage => construct_inv hp ⟨hw, hlt, hrise, hpage⟩⟩

/-! ## The memory along a step -/

/-- The parameters admitted and the memory well formed: what a step keeps with no other invariant. -/
def memoryInv (s : State) : Prop := validParams s.params ∧ memoryOk s

/-- Two states with the same parameters, framebuffer and dirty bits. -/
def sameMemory (s t : State) : Prop := t.params = s.params ∧ t.fb = s.fb ∧ t.dirty = s.dirty

theorem memoryInv.congr {s t : State} (hs : memoryInv s) (h : sameMemory s t) : memoryInv t := by
  obtain ⟨hp, hf, hd⟩ := h
  unfold memoryInv memoryOk at *
  rwa [hp, hf, hd]

theorem enqueueFirst_sameMemory {s t : State} {pending : List EntryWord} (h : s.enqueueFirst pending = .next t) :
    sameMemory s t := by
  rcases enqueueFirst_next h with ⟨rfl, -⟩ | ⟨e, rest, -, ⟨rfl, -⟩ | ⟨-, -, -, rfl⟩⟩
  · exact ⟨rfl, rfl, rfl⟩
  · exact ⟨rfl, rfl, rfl⟩
  · exact ⟨rfl, rfl, rfl⟩

theorem readDrained_sameMemory (s : State) (a : Access) : sameMemory s (s.readDrained a) := by
  unfold State.readDrained
  split
  · exact ⟨rfl, rfl, rfl⟩
  · exact ⟨rfl, rfl, rfl⟩

theorem RegRun.memoryInv {s t : State} (h : RegRun s t) (hs : memoryInv s) : memoryInv t := by
  refine ⟨?_, h.memoryOk hs.1 hs.2⟩
  rw [h.engineFrame.1]
  exact hs.1

theorem vramBytes_pos {p : Params} (h : validParams p) : 0 < p.vramBytes := by
  obtain ⟨m, hm, hv, -⟩ := vram_multiple h.2.2
  omega

theorem pageCount_pos {p : Params} (h : validParams p) : 0 < pageCount p := by
  obtain ⟨m, hm, hv, -⟩ := vram_multiple h.2.2
  show 0 < p.vramBytes / 2 ^ 12
  omega

/-- The contents are free after a change of size, their form is not (70 R414; log 10). -/
theorem freshVram_memoryInv {s : State} (hv : validParams s.params) : memoryInv s.freshVram :=
  ⟨hv, pictureOf_wf _ _, pictureOf_lt (vramBytes_pos hv) _, dirtyOf_rising _ _, dirtyOf_lt (pageCount_pos hv) _⟩

theorem applyConfig_memoryInv {s : State} {pb pitch vb : Nat} (hs : memoryInv s)
    (hc : configOk pb pitch vb = true) : memoryInv (s.applyConfig pb pitch vb) := by
  obtain ⟨⟨hpow, hcap, -⟩, hmem⟩ := hs
  obtain ⟨u, happly, hu⟩ := applyConfig_form s pb pitch vb
  have hv : validParams u.params := by rw [hu]; exact ⟨hpow, hcap, hc⟩
  rw [happly]
  split
  case isTrue hsize =>
    refine ⟨hv, ?_⟩
    rw [hu, hsize]
    exact hmem
  case isFalse => exact freshVram_memoryInv hv

/-- Every change keeps the memory invariant. Three kinds of change write the memory or the parameters: register
bytes, alone or in a dequeued entry, and CONFIG. -/
theorem Change.memoryInv {i : Instr} {s t : State} (h : Change i s t) (hs : memoryInv s) : memoryInv t := by
  cases h with
  | bytes _ hr _ => exact hr.memoryInv hs
  | dequeue => exact ((executeWord_run s s.headEntry).memoryInv hs).congr ⟨rfl, rfl, rfl⟩
  | config pb pitch vb h _ _ hc => exact applyConfig_memoryInv (hs.congr ⟨rfl, rfl, rfl⟩) hc
  | access _ _ _ _ _ _ _ _ he => exact hs.congr (enqueueFirst_sameMemory he)
  | goOn _ _ _ _ he => exact hs.congr (enqueueFirst_sameMemory he)
  | drained a => exact hs.congr (readDrained_sameMemory s a)
  | same | pipe | discard | status | readReturns | wake | stop | empty | waitIdle | report | close | closed =>
    exact hs.congr ⟨rfl, rfl, rfl⟩

theorem hostWrite_memoryInv {s : State} (hs : memoryInv s) (a : Nat) (b : Byte) : memoryInv (s.hostWrite a b) := by
  obtain ⟨hv, hw, hlt, hdirty⟩ := hs
  refine ⟨hv, Memory.wf_write _ _ hw, fun c hc => ?_, hdirty⟩
  rcases Memory.mem_write hc with rfl | hc
  · exact Nat.mod_lt _ (vramBytes_pos hv)
  · exact hlt c hc

theorem clearDirty_memoryInv {s : State} (hs : memoryInv s) (page : Nat) : memoryInv (s.clearDirty page) := by
  obtain ⟨hv, hw, hlt, hrise, hpage⟩ := hs
  exact ⟨hv, hw, hlt, hrise.filter _, fun q hq => hpage q (mem_clearDirty.1 hq).1⟩

theorem withInputs_memoryInv {s : State} (hs : memoryInv s) (r : List Input) : memoryInv (s.withInputs r) :=
  hs.congr ⟨rfl, rfl, rfl⟩

theorem step_memoryInv {s t : State} (hs : memoryInv s) (h : step s = .next t) : memoryInv t := by
  rcases step_next h with ⟨i, s', hs', hx⟩ | (rfl | ⟨r, rfl⟩) | ⟨r, a, b, rfl⟩ | ⟨r, a, rfl⟩ | ⟨r, page, rfl⟩
  · refine (exec_change hx).memoryInv ?_
    rcases hs' with rfl | ⟨r, rfl⟩
    · exact hs
    · exact withInputs_memoryInv hs r
  · exact hs
  · exact withInputs_memoryInv hs r
  · exact hostWrite_memoryInv (withInputs_memoryInv hs r) a b
  · exact (withInputs_memoryInv hs r).congr ⟨rfl, rfl, rfl⟩
  · exact clearDirty_memoryInv (withInputs_memoryInv hs r) page

/-- Settles O8: a step is the Host's access, or an instruction whose `Change` keeps the memory invariant. -/
theorem stepKeepsMemoryCanonical : Obligations.StepKeepsMemoryCanonical :=
  fun _ _ hp hm h => step_memoryInv ⟨hp, hm⟩ h

end Sys2Proof.Machine

/-! # What each agent may change, and the invariants along a step

The composite operations as one update each; who owns each signal; what the Producer and the Host never write;
CLOSE; and the invariants of the queue, the agents and the engine carried through everything `Change` lists. -/

namespace Sys2Proof.Machine

open Sys2Proof

/-! ## Composite operations as one update -/

/-- A drained read as issued: the start of the hold, or the value at once (45 R352). -/
theorem readDrained_cases (s : State) (a : Access) :
    s.readDrained a = { s with wakePending := true, pstate := .waitDrain a } ∨
    s.readDrained a = s.returnValue a := by
  unfold State.readDrained
  split
  · exact .inl rfl
  · exact .inr rfl

/-- DEQUEUE-EXECUTE takes the head entry and writes what the engine may write (40 R153). -/
theorem dequeue_eq (s : State) : ∃ fb dirty pipe ex regs,
    (s.executeWord s.headEntry).popEntry = { s with
      queue := { s.queue with slots := s.queue.slots.set (s.queue.rd % s.params.qcap) 0#64, rd := s.queue.rd + 1 }
      fb := fb, dirty := dirty, pipe := pipe, ex := ex, regs := regs } := by
  have hframe := (executeWord_run s s.headEntry).frame
  generalize s.executeWord s.headEntry = u at hframe
  exact ⟨u.fb, u.dirty, u.pipe, u.ex, u.regs, by rw [hframe]; rfl⟩

theorem dequeue_popped (s : State) : popped s (s.executeWord s.headEntry).popEntry := by
  obtain ⟨fb, dirty, pipe, ex, regs, heq⟩ := dequeue_eq s
  rw [heq]
  exact ⟨rfl, rfl⟩

/-- CONFIG sets the parameters but `QCAP` and abandons a waiting primitive; the picture and the dirty bits may be
free contents (70 R414; log 10). -/
theorem applyConfig_eq (s : State) (pb pitch vb : Nat) : ∃ fb dirty ctr,
    s.applyConfig pb pitch vb = { s with
      params := { s.params with pb := pb, pitch := pitch, vramBytes := vb }
      ex := { s.ex with active := false }
      regs := { s.regs with stageCnt := if s.ex.active then 0 else s.regs.stageCnt }
      fb := fb, dirty := dirty, freeCtr := ctr } := by
  obtain ⟨u, happly, hu⟩ := applyConfig_form s pb pitch vb
  rw [happly, hu]
  split
  · exact ⟨_, _, _, rfl⟩
  · exact ⟨_, _, _, rfl⟩

/-! ## Who owns each signal -/

/-- The signals between the agents and the Host's position are as before, but `wake_pending` may have been set. -/
structure SignalsKept (s t : State) : Prop where
  stop : t.stop = s.stop
  wake : s.wakePending = true → t.wakePending = true
  rd : t.queue.rd = s.queue.rd
  cstate : t.cstate = s.cstate
  busy : t.busy = s.busy
  hstate : t.hstate = s.hstate
  params : t.params = s.params

theorem RegRun.signalsKept {s t : State} (h : RegRun s t) : SignalsKept s t := by
  rw [h.frame]
  exact ⟨rfl, id, rfl, rfl, rfl, rfl, rfl⟩

theorem RegRun.queue {s t : State} (h : RegRun s t) : t.queue = s.queue := by rw [h.frame]

theorem enqueueFirst_signalsKept {s t : State} {pending : List EntryWord} (h : s.enqueueFirst pending = .next t) :
    SignalsKept s t := by
  rcases enqueueFirst_next h with ⟨rfl, -⟩ | ⟨e, rest, -, ⟨rfl, -⟩ | ⟨-, -, -, rfl⟩⟩
  · exact ⟨rfl, id, rfl, rfl, rfl, rfl, rfl⟩
  · exact ⟨rfl, fun _ => rfl, rfl, rfl, rfl, rfl, rfl⟩
  · exact ⟨rfl, fun hw => by simp [State.enqueued, hw], rfl, rfl, rfl, rfl, rfl⟩

theorem readStatus_signalsKept (s : State) (a : Access) : SignalsKept s (s.readStatus a) :=
  ⟨rfl, fun hw => by simp [State.readStatus, State.returnValue, hw], rfl, rfl, rfl, rfl, rfl⟩

theorem readDrained_signalsKept (s : State) (a : Access) : SignalsKept s (s.readDrained a) := by
  rcases readDrained_cases s a with h | h
  · rw [h]; exact ⟨rfl, fun _ => rfl, rfl, rfl, rfl, rfl, rfl⟩
  · rw [h]; exact ⟨rfl, id, rfl, rfl, rfl, rfl, rfl⟩

theorem readDrained_queue (s : State) (a : Access) : (s.readDrained a).queue = s.queue := by
  rcases readDrained_cases s a with h | h
  · rw [h]
  · rw [h]; rfl

/-- Each signal is as before, or the instruction is one of its owner's (10 R33, R34, R35, R37, R49; 60 R383);
the Consumer's own steps start from Idle and Draining (41 R180 to R184). -/
structure OwnersOnly (i : Instr) (s t : State) : Prop where
  stop : i = .close ∨ t.stop = s.stop
  wake : (i = .wake ∨ i = .stop) ∨ (s.wakePending = true → t.wakePending = true)
  rd : i = .dequeueExecute ∨ t.queue.rd = s.queue.rd
  wr : (isWriteAccess i ∨ i = .enqueue ∨ i = .enqueueFull) ∨ t.queue.wr = s.queue.wr
  consumer : ((i = .wake ∨ i = .empty ∨ i = .stop) ∧ s.cstate ≠ .stopped) ∨ (t.cstate = s.cstate ∧ t.busy = s.busy)
  params : isConfig i = true ∨ t.params = s.params

theorem SignalsKept.ownersOnly {i : Instr} {s t : State} (h : SignalsKept s t)
    (hwr : (isWriteAccess i ∨ i = .enqueue ∨ i = .enqueueFull) ∨ t.queue.wr = s.queue.wr) : OwnersOnly i s t :=
  ⟨.inr h.stop, .inr h.wake, .inr h.rd, hwr, .inr ⟨h.cstate, h.busy⟩, .inr h.params⟩

theorem Change.ownersOnly {i : Instr} {s t : State} (h : Change i s t) : OwnersOnly i s t := by
  cases h with
  | bytes _ hr => exact hr.signalsKept.ownersOnly (.inr (congrArg Queue.wr hr.queue))
  | access _ _ _ _ hw _ _ _ he => exact (enqueueFirst_signalsKept he).ownersOnly (.inl (.inl hw))
  | goOn _ _ hi _ he => exact (enqueueFirst_signalsKept he).ownersOnly (.inl (.inr hi))
  | status a => exact (readStatus_signalsKept s a).ownersOnly (.inr rfl)
  | drained a => exact (readDrained_signalsKept s a).ownersOnly (.inr (congrArg Queue.wr (readDrained_queue s a)))
  | dequeue =>
    obtain ⟨fb, dirty, pipe, ex, regs, heq⟩ := dequeue_eq s
    rw [heq]
    exact ⟨.inr rfl, .inr id, .inl rfl, .inr rfl, .inr ⟨rfl, rfl⟩, .inr rfl⟩
  | wake hc => exact ⟨.inr rfl, .inl (.inl rfl), .inr rfl, .inr rfl, .inl ⟨.inl rfl, by simp [hc]⟩, .inr rfl⟩
  | stop hc =>
    exact ⟨.inr rfl, .inl (.inr rfl), .inr rfl, .inr rfl, .inl ⟨.inr (.inr rfl), by simp [hc]⟩, .inr rfl⟩
  | empty hc => exact ⟨.inr rfl, .inr id, .inr rfl, .inr rfl, .inl ⟨.inr (.inl rfl), by simp [hc]⟩, .inr rfl⟩
  | waitIdle b _ hb => exact ⟨.inr rfl, .inr hb, .inr rfl, .inr rfl, .inr ⟨rfl, rfl⟩, .inr rfl⟩
  | config pb pitch vb h =>
    obtain ⟨fb, dirty, ctr, heq⟩ := applyConfig_eq (s.withHState h) pb pitch vb
    rw [heq]
    exact ⟨.inr rfl, .inr id, .inr rfl, .inr rfl, .inr ⟨rfl, rfl⟩, .inl rfl⟩
  | close => exact ⟨.inl rfl, .inr fun _ => rfl, .inr rfl, .inr rfl, .inr ⟨rfl, rfl⟩, .inr rfl⟩
  | same | pipe | discard | readReturns | report | closed =>
    exact ⟨.inr rfl, .inr id, .inr rfl, .inr rfl, .inr ⟨rfl, rfl⟩, .inr rfl⟩

theorem isWriteAccess_iff {i : Instr} : isWriteAccess i ↔
    (∃ o v, i = .write8 o v) ∨ (∃ o v, i = .write16 o v) ∨ (∃ o v, i = .write32 o v) ∨
      (∃ p v, i = .out8 p v) ∨ (∃ p v, i = .out16 p v) ∨ ∃ p v, i = .out32 p v := by
  constructor
  · cases i <;> simp [isWriteAccess]
  · rintro (⟨_, _, rfl⟩ | ⟨_, _, rfl⟩ | ⟨_, _, rfl⟩ | ⟨_, _, rfl⟩ | ⟨_, _, rfl⟩ | ⟨_, _, rfl⟩) <;> trivial

theorem isConfig_iff {i : Instr} : isConfig i = true ↔ ∃ pb pitch vb, i = .config pb pitch vb := by
  constructor
  · cases i <;> simp [isConfig]
  · rintro ⟨pb, pitch, vb, rfl⟩; rfl

/-- Settles O21: every clause is a field of `OwnersOnly`, which every `Change` meets. -/
theorem signalsChangeOnlyByTheirOwners : Obligations.SignalsChangeOnlyByTheirOwners := by
  intro i s t h
  obtain ⟨hstop, hwake, hrd, hwr, hconsumer, hparams⟩ := (exec_change h).ownersOnly
  refine ⟨fun hne => hstop.resolve_right hne, fun hs ht => hwake.resolve_right fun hw => ?_,
    fun hne => hrd.resolve_right hne, fun hne => ?_, fun hne => ?_, fun hs => ?_,
    fun hne => isConfig_iff.1 (hparams.resolve_right hne)⟩
  · exact absurd ((hw hs).symm.trans ht) (by decide)
  · rcases hwr.resolve_right hne with hw | he | he
    · exact .inr (.inr (isWriteAccess_iff.1 hw))
    · exact .inl he
    · exact .inr (.inl he)
  · rcases hconsumer with ⟨hi, -⟩ | ⟨hc, hb⟩
    · exact hi
    · exact (hne.elim (absurd hc) (absurd hb))
  · rcases hconsumer with ⟨-, hn⟩ | ⟨hc, -⟩
    · exact absurd hs hn
    · exact hc.trans hs

/-! ## What the Producer and the Host never write -/

/-- Registers, engine, framebuffer, dirty bits, parameters and read cursor are as before. -/
def registersKept (s t : State) : Prop :=
  t.regs = s.regs ∧ t.ex = s.ex ∧ t.fb = s.fb ∧ t.dirty = s.dirty ∧ t.params = s.params ∧ t.queue.rd = s.queue.rd

theorem enqueueFirst_registersKept {s t : State} {pending : List EntryWord} (h : s.enqueueFirst pending = .next t) :
    registersKept s t := by
  rcases enqueueFirst_next h with ⟨rfl, -⟩ | ⟨e, rest, -, ⟨rfl, -⟩ | ⟨-, -, -, rfl⟩⟩
  · exact ⟨rfl, rfl, rfl, rfl, rfl, rfl⟩
  · exact ⟨rfl, rfl, rfl, rfl, rfl, rfl⟩
  · exact ⟨rfl, rfl, rfl, rfl, rfl, rfl⟩

theorem readDrained_registersKept (s : State) (a : Access) : registersKept s (s.readDrained a) := by
  rcases readDrained_cases s a with h | h
  · rw [h]; exact ⟨rfl, rfl, rfl, rfl, rfl, rfl⟩
  · rw [h]; exact ⟨rfl, rfl, rfl, rfl, rfl, rfl⟩

/-- A Producer access, a step of a waiting access, or a Host call other than CONFIG. -/
def isProducerOrHostStep (i : Instr) : Prop :=
  isAccess i = true ∨ i ∈ [Instr.enqueue, .enqueueFull, .waitIdle, .reportUtilization, .close]

theorem isProducerOrHostStep.not_registerRow {i : Instr} (hi : isProducerOrHostStep i) : ¬ isRegisterRow i := by
  rintro ⟨hacc, hagent, -⟩
  rcases hi with hi | hi
  · exact absurd (hacc.symm.trans hi) (by decide)
  · refine hagent ?_
    simp only [List.mem_cons, List.not_mem_nil] at hi ⊢
    tauto

/-- Only the Consumer's rows and CONFIG write registers, the engine or memory (10 R39, 20 R70). -/
theorem Change.registersKept {i : Instr} {s t : State} (h : Change i s t) (hi : isProducerOrHostStep i) :
    registersKept s t := by
  cases h with
  | bytes hr => exact absurd hr hi.not_registerRow
  | pipe _ hr => exact absurd hr hi.not_registerRow
  | access _ _ _ _ _ _ _ _ he => exact enqueueFirst_registersKept he
  | goOn _ _ _ _ he => exact enqueueFirst_registersKept he
  | drained a => exact readDrained_registersKept s a
  | dequeue | wake | stop | empty | config => simp [isProducerOrHostStep, isAccess] at hi
  | same | discard | status | readReturns | waitIdle | report | close | closed =>
    exact ⟨rfl, rfl, rfl, rfl, rfl, rfl⟩

/-- Settles O30: the rows that write registers and the Consumer's steps are neither accesses nor Host calls. -/
theorem producerAndHostCallsWriteNoRegister : Obligations.ProducerAndHostCallsWriteNoRegister :=
  fun _ _ _ hi h => (exec_change h).registersKept hi

/-! ## CLOSE -/

section Close

variable {s : State}

/-- close called after the Consumer has stopped does not wait (10 R38). -/
theorem callClose_stopped (hc : s.cstate = .stopped) (waiting : HState) :
    s.callClose s.hstate waiting = { s with stop := true, wakePending := true } := by
  rw [State.callClose_eq, if_pos hc]

theorem callClose_running (hc : s.cstate ≠ .stopped) (before waiting : HState) :
    s.callClose before waiting = { s with stop := true, wakePending := true, hstate := waiting } := by
  rw [State.callClose_eq, if_neg hc]

theorem execClose_ready (h : s.hstate = .ready) : execClose s = .next (s.callClose .ready .waitStopped) := by
  unfold execClose; rw [h]

theorem execClose_waitIdle (h : s.hstate = .waitIdle) : execClose s = .next (s.callClose .waitIdle .waitBoth) := by
  unfold execClose; rw [h]

theorem execClose_waitStopped (h : s.hstate = .waitStopped) :
    execClose s = .next (if s.cstate = .stopped then s.withHState .ready else s) := by
  unfold execClose; rw [h]

theorem execClose_waitBoth (h : s.hstate = .waitBoth) :
    execClose s = .next (if s.cstate = .stopped then s.withHState .waitIdle else s) := by
  unfold execClose; rw [h]

end Close

/-- Settles O34: the four positions of the Host, each before and after the Consumer has stopped. -/
theorem closeSetsStopAndWaits : Obligations.CloseSetsStopAndWaits := by
  intro s
  refine ⟨fun h hc => ?_, fun h hc => ?_, fun h hc => ?_, fun h hc => ?_, fun h hc => ?_, fun h hc => ?_,
    fun h hc => ?_, fun h hc => ?_⟩
  · exact (execClose_ready h).trans (by rw [callClose_running hc])
  · exact (execClose_ready h).trans (by rw [← h, callClose_stopped hc])
  · exact (execClose_waitStopped h).trans (by rw [if_pos hc]; rfl)
  · exact (execClose_waitStopped h).trans (by rw [if_neg hc])
  · exact (execClose_waitIdle h).trans (by rw [callClose_running hc])
  · exact (execClose_waitIdle h).trans (by rw [← h, callClose_stopped hc])
  · exact (execClose_waitBoth h).trans (by rw [if_pos hc]; rfl)
  · exact (execClose_waitBoth h).trans (by rw [if_neg hc])

/-! ## The queue's invariant -/

/-- Entries an access may still have to enqueue: one to four that the Producer may make (41 R171). -/
def pendingOk (pending : List EntryWord) : Prop := pending ≠ [] ∧ pending.length ≤ 4 ∧ ∀ e ∈ pending, entryOk e

theorem makeEntries_pendingOk {sp : BusSpace} {w : Width} {off : BitVec 24} {v : Word}
    (hp : sp = .port → portEntryWf off = true) : pendingOk (makeEntries sp w off v) :=
  ⟨(makeEntries_len sp w off v).1, (makeEntries_len sp w off v).2, makeEntries_ok hp⟩

theorem producerOk_waitRoom {s : State} {held : Bool} {pending : List EntryWord}
    (h : s.pstate = .waitRoom held pending) : producerOk s ↔ pendingOk pending := by
  unfold producerOk
  rw [h]
  rfl

theorem producerOk_waitDrain {s : State} {a : Access} (h : s.pstate = .waitDrain a) :
    producerOk s ↔ a.isSynchronous = false := by
  unfold producerOk
  rw [h]

theorem producerOk_ready {s : State} (h : s.pstate = .ready) : producerOk s := by
  unfold producerOk
  rw [h]
  trivial

theorem producerOk_congr {s t : State} (h : t.pstate = s.pstate) : producerOk t ↔ producerOk s := by
  unfold producerOk
  rw [h]

theorem enqueueFirst_queueOk {s t : State} {pending : List EntryWord} (h : s.enqueueFirst pending = .next t)
    (hp : pendingOk pending) (hs : queueOk s) : queueOk t := by
  rcases enqueueFirst_next h with ⟨rfl, -⟩ | ⟨e, rest, rfl, ⟨rfl, -⟩ | ⟨hn, -, -, rfl⟩⟩
  · exact hs
  · exact hs
  · obtain ⟨-, -, hok⟩ := hp
    have hroom : s.queue.wr - s.queue.rd < s.params.qcap := by
      obtain ⟨-, -, hle, -⟩ := hs
      omega
    exact (enqueued_pushed s e _).queueOk hs (hok e List.mem_cons_self) hroom

/-- ENQUEUE pushes an entry the Producer may make and DEQUEUE-EXECUTE pops one; no other change writes the queue
or `QCAP`. -/
theorem Change.queueOk {i : Instr} {s t : State} (h : Change i s t) (hp : producerOk s) (hs : queueOk s) :
    queueOk t := by
  cases h with
  | bytes _ hr => exact (queueOk_congr hr.queue (congrArg Params.qcap hr.signalsKept.params)).2 hs
  | access _ _ _ _ _ hport _ _ he => exact enqueueFirst_queueOk he (makeEntries_pendingOk hport) hs
  | goOn held pending _ hw he => exact enqueueFirst_queueOk he ((producerOk_waitRoom hw).1 hp) hs
  | drained a =>
    exact (queueOk_congr (readDrained_queue s a) (congrArg Params.qcap (readDrained_signalsKept s a).params)).2 hs
  | dequeue _ hlt => exact (dequeue_popped s).queueOk hs hlt
  | config pb pitch vb h =>
    obtain ⟨fb, dirty, ctr, heq⟩ := applyConfig_eq (s.withHState h) pb pitch vb
    rw [heq]
    exact hs
  | same | pipe | discard | status | readReturns | wake | stop | empty | waitIdle | report | close | closed =>
    exact hs

/-! ## The agents' invariants -/

theorem enqueueFirst_producerOk {s t : State} {pending : List EntryWord} (h : s.enqueueFirst pending = .next t)
    (hp : pendingOk pending) : producerOk t := by
  rcases enqueueFirst_next h with ⟨rfl, -⟩ | ⟨e, rest, rfl, ⟨rfl, -⟩ | ⟨-, -, -, rfl⟩⟩
  · exact producerOk_ready rfl
  · exact (producerOk_waitRoom rfl).2 hp
  · by_cases hr : rest = []
    · exact producerOk_ready (if_pos hr)
    · obtain ⟨-, hlen, hok⟩ := hp
      refine (producerOk_waitRoom (if_neg hr)).2 ⟨hr, ?_, fun e he => hok e (List.mem_cons_of_mem _ he)⟩
      rw [List.length_cons] at hlen
      omega

/-- The Producer waits with the entries of an access or for a drained read (10 R36). -/
theorem Change.producerOk {i : Instr} {s t : State} (h : Change i s t) (hs : producerOk s) : producerOk t := by
  cases h with
  | bytes _ hr => exact (producerOk_congr (by rw [hr.frame])).2 hs
  | access _ _ _ _ _ hport _ _ he => exact enqueueFirst_producerOk he (makeEntries_pendingOk hport)
  | goOn held pending _ hw he => exact enqueueFirst_producerOk he ((producerOk_waitRoom hw).1 hs)
  | discard | status | readReturns => exact producerOk_ready rfl
  | drained a _ _ _ hsync =>
    rcases readDrained_cases s a with h | h
    · rw [h]; exact (producerOk_waitDrain rfl).2 hsync
    · rw [h]; exact producerOk_ready rfl
  | dequeue =>
    obtain ⟨fb, dirty, pipe, ex, regs, heq⟩ := dequeue_eq s
    rw [heq]
    exact hs
  | config pb pitch vb h =>
    obtain ⟨fb, dirty, ctr, heq⟩ := applyConfig_eq (s.withHState h) pb pitch vb
    rw [heq]
    exact hs
  | same | pipe | wake | stop | empty | waitIdle | report | close | closed => exact hs

/-- The Consumer's invariants hold on when its state and the queue stay and the marks are only set. -/
theorem consumerOk.mono {s t : State} (hs : consumerOk s) (hq : t.queue = s.queue) (hc : t.cstate = s.cstate)
    (hb : t.busy = s.busy) (hw : s.wakePending = true → t.wakePending = true)
    (hstop : s.stop = true → t.stop = true) : consumerOk t := by
  obtain ⟨hbusy, hwake, hstopped⟩ := hs
  unfold consumerOk State.occupancy
  rw [hq, hc, hb]
  exact ⟨hbusy, fun hi hn => hw (hwake hi hn), fun h => hstop (hstopped h)⟩

theorem SignalsKept.consumerOk {s t : State} (h : SignalsKept s t) (hq : t.queue = s.queue) (hs : consumerOk s) :
    consumerOk t :=
  hs.mono hq h.cstate h.busy h.wake h.stop.trans

/-- The first entry of an empty queue leaves occupancy 1, below the low mark, so it wakes the Consumer; a queue
that was not empty had woken it (40 R151, R157). -/
theorem enqueued_wakes {s : State} (hs : consumerOk s) (hi : s.cstate = .idle) (e : EntryWord) (p : PState) :
    (s.enqueued e p).wakePending = true := by
  obtain ⟨-, hwake, -⟩ := hs
  have hw : s.wakePending = true ∨ s.queue.wr + 1 - s.queue.rd < 8 := by
    rcases Nat.eq_zero_or_pos (s.queue.wr - s.queue.rd) with hz | hpos
    · exact .inr (by omega)
    · exact .inl (hwake hi hpos)
  rcases hw with hw | hw <;> simp [State.enqueued, hw]

theorem enqueueFirst_consumerOk {s t : State} {pending : List EntryWord} (h : s.enqueueFirst pending = .next t)
    (hs : consumerOk s) : consumerOk t := by
  rcases enqueueFirst_next h with ⟨rfl, -⟩ | ⟨e, rest, rfl, ⟨rfl, -⟩ | ⟨-, -, -, rfl⟩⟩
  · exact hs
  · exact hs.mono rfl rfl rfl (fun _ => rfl) id
  · have ⟨hbusy, _, hstopped⟩ := hs
    exact ⟨hbusy, fun hi _ => enqueued_wakes hs hi e _, hstopped⟩

/-- `busy` exactly while Draining, the wake invariant, and Stopped only after `stop` (10 R35, 40 R157, 41 R184). -/
theorem Change.consumerOk {i : Instr} {s t : State} (h : Change i s t) (hs : consumerOk s) : consumerOk t := by
  cases h with
  | bytes _ hr => exact hr.signalsKept.consumerOk hr.queue hs
  | access _ _ _ _ _ _ _ _ he => exact enqueueFirst_consumerOk he hs
  | goOn _ _ _ _ he => exact enqueueFirst_consumerOk he hs
  | status a => exact (readStatus_signalsKept s a).consumerOk rfl hs
  | drained a => exact (readDrained_signalsKept s a).consumerOk (readDrained_queue s a) hs
  | dequeue hc =>
    obtain ⟨fb, dirty, pipe, ex, regs, heq⟩ := dequeue_eq s
    rw [heq]
    obtain ⟨hbusy, -, hstopped⟩ := hs
    exact ⟨hbusy, fun hi _ => absurd (hc.symm.trans hi) (by decide), hstopped⟩
  | wake => simp [Sys2Proof.Machine.consumerOk]
  | stop hc _ hstop =>
    have hbusy : s.busy = false := by simpa [hc] using hs.1
    simp [Sys2Proof.Machine.consumerOk, hbusy, hstop]
  | empty _ hq => simp [Sys2Proof.Machine.consumerOk, State.occupancy, hq]
  | waitIdle b _ hb => exact hs.mono rfl rfl rfl hb id
  | config pb pitch vb h =>
    obtain ⟨fb, dirty, ctr, heq⟩ := applyConfig_eq (s.withHState h) pb pitch vb
    rw [heq]
    exact hs
  | close => exact hs.mono rfl rfl rfl (fun _ => rfl) fun _ => rfl
  | same | pipe | discard | readReturns | report | closed => exact hs

theorem SignalsKept.hostOk {s t : State} (h : SignalsKept s t) (hs : hostOk s) : hostOk t := by
  intro hw
  rw [h.hstate] at hw
  exact h.stop.trans (hs hw)

/-- A Host that waits for Stopped has set `stop` (10 R38): CLOSE alone begins that wait. -/
theorem Change.hostOk {i : Instr} {s t : State} (h : Change i s t) (hs : hostOk s) : hostOk t := by
  cases h with
  | bytes _ hr => exact hr.signalsKept.hostOk hs
  | access _ _ _ _ _ _ _ _ he => exact (enqueueFirst_signalsKept he).hostOk hs
  | goOn _ _ _ _ he => exact (enqueueFirst_signalsKept he).hostOk hs
  | drained a => exact (readDrained_signalsKept s a).hostOk hs
  | dequeue =>
    obtain ⟨fb, dirty, pipe, ex, regs, heq⟩ := dequeue_eq s
    rw [heq]
    exact hs
  | waitIdle b h _ hfrom hnot =>
    rintro (hw | hw)
    · exact hs (.inr (hfrom hw))
    · exact absurd hw hnot
  | config pb pitch vb h hpos =>
    obtain ⟨fb, dirty, ctr, heq⟩ := applyConfig_eq (s.withHState h) pb pitch vb
    rw [heq]
    rcases hpos with rfl | rfl
    · exact hs
    · simp [Sys2Proof.Machine.hostOk]
  | close => exact fun _ => rfl
  | closed h _ hpos => rcases hpos with rfl | rfl <;> simp [Sys2Proof.Machine.hostOk]
  | same | pipe | discard | status | readReturns | wake | stop | empty | report => exact hs

/-! ## The engine's invariant -/

theorem engineOk_congr {s t : State} (hp : t.params = s.params) (he : t.ex = s.ex) (hr : t.regs = s.regs) :
    engineOk t ↔ engineOk s := by
  unfold engineOk
  rw [hp, he, hr]

theorem registersKept.engineOk {s t : State} (h : registersKept s t) (hs : engineOk s) : engineOk t := by
  obtain ⟨hregs, hex, -, -, hparams, -⟩ := h
  exact (engineOk_congr hparams hex hregs).2 hs

/-- CONFIG leaves no primitive waiting and the stage empty (70 R414). -/
theorem applyConfig_engineOk {s : State} (hs : engineOk s) (pb pitch vb : Nat) :
    engineOk (s.applyConfig pb pitch vb) := by
  obtain ⟨fb, dirty, ctr, heq⟩ := applyConfig_eq s pb pitch vb
  obtain ⟨-, hidle, hleft⟩ := hs
  have hstage : (if s.ex.active then 0 else s.regs.stageCnt) = 0 := by
    split
    case isTrue => rfl
    case isFalse h => exact hidle (by simpa using h)
  rw [heq]
  exact ⟨fun ha => absurd ha (by simp), fun _ => hstage, hleft⟩

/-- Register bytes, alone or in a dequeued entry, and CONFIG are what writes the engine. -/
theorem Change.engineOk {i : Instr} {s t : State} (h : Change i s t) (hv : validParams s.params)
    (hs : engineOk s) : engineOk t := by
  have hpb : s.params.pb = 1 ∨ s.params.pb = 2 ∨ s.params.pb = 4 := configOk_pb hv.2.2
  cases h with
  | bytes _ _ hkeeps => exact hkeeps hs hpb
  | access _ _ _ _ _ _ _ _ he => exact (enqueueFirst_registersKept he).engineOk hs
  | goOn _ _ _ _ he => exact (enqueueFirst_registersKept he).engineOk hs
  | drained a => exact (readDrained_registersKept s a).engineOk hs
  | dequeue => exact (engineOk_congr rfl rfl rfl).1 (executeWord_engineOk s s.headEntry hs hpb)
  | config pb pitch vb h =>
    exact applyConfig_engineOk ((engineOk_congr (t := s.withHState h) rfl rfl rfl).2 hs) pb pitch vb
  | same | pipe | discard | status | readReturns | wake | stop | empty | waitIdle | report | close | closed =>
    exact hs

/-! ## A step -/

/-- The block's invariant but for the memory, which the Host's own framebuffer accesses write. -/
structure blockInv (s : State) : Prop where
  params : validParams s.params
  queue : queueOk s
  consumer : consumerOk s
  producer : producerOk s
  host : hostOk s
  engine : engineOk s

theorem inv.blockInv {s : State} (h : inv s) : blockInv s := by
  obtain ⟨hparams, hqueue, hconsumer, hproducer, hhost, -, hengine⟩ := h
  exact ⟨hparams, hqueue, hconsumer, hproducer, hhost, hengine⟩

/-- What taking an input, and the Host's framebuffer accesses, may write (20 R77, R79). -/
def inputFrame (s t : State) : Prop :=
  t = { s with fb := t.fb, dirty := t.dirty, out := t.out, inputs := t.inputs }

theorem blockInv.of_inputFrame {s t : State} (hs : blockInv s) (h : inputFrame s t) : blockInv t := by
  rw [h]
  exact ⟨hs.params, hs.queue, hs.consumer, hs.producer, hs.host, hs.engine⟩

/-- Every step takes an input or none, and then runs at most one instruction. -/
theorem step_change {s t : State} (h : step s = .next t) : ∃ u, inputFrame s u ∧ (t = u ∨ ∃ i, Change i u t) := by
  rcases step_next h with ⟨i, u, hu, hx⟩ | (rfl | ⟨r, rfl⟩) | ⟨r, a, b, rfl⟩ | ⟨r, a, rfl⟩ | ⟨r, page, rfl⟩
  · refine ⟨u, ?_, .inr ⟨i, exec_change hx⟩⟩
    rcases hu with rfl | ⟨r, rfl⟩
    · rfl
    · rfl
  all_goals
    refine ⟨_, ?_, .inl rfl⟩
    rfl

/-- What the invariant gives and every change keeps holds after a step. -/
theorem step_keeps {P : State → Prop} (hinv : ∀ u, blockInv u → P u)
    (hchange : ∀ i u t, Change i u t → blockInv u → P t) {s t : State} (hs : inv s) (h : step s = .next t) : P t := by
  obtain ⟨u, hu, ht⟩ := step_change h
  have hb : blockInv u := hs.blockInv.of_inputFrame hu
  rcases ht with rfl | ⟨i, hc⟩
  · exact hinv t hb
  · exact hchange i u t hc hb

/-- Settles O9, by `Change.queueOk`; the Producer's invariant says what it may push. -/
theorem stepKeepsTheQueueInvariant : Obligations.StepKeepsTheQueueInvariant :=
  fun _ _ => step_keeps (fun _ hb => hb.queue) fun _ _ _ hc hb => hc.queueOk hb.producer hb.queue

/-- Settles O10: each agent's invariant is kept on its own. -/
theorem stepKeepsTheAgentsInvariants : Obligations.StepKeepsTheAgentsInvariants :=
  fun _ _ => step_keeps (P := fun t => consumerOk t ∧ producerOk t ∧ hostOk t)
    (fun _ hb => ⟨hb.consumer, hb.producer, hb.host⟩)
    fun _ _ _ hc hb => ⟨hc.consumerOk hb.consumer, hc.producerOk hb.producer, hc.hostOk hb.host⟩

/-- Settles O11, by `Change.engineOk`. -/
theorem stepKeepsTheEngineInvariant : Obligations.StepKeepsTheEngineInvariant :=
  fun _ _ => step_keeps (fun _ hb => hb.engine) fun _ _ _ hc hb => hc.engineOk hb.params hb.engine

end Sys2Proof.Machine

/-! # Encoding: the two ways round, the spec's words, and the status word

`RoundTrip` says row by row that a well-formed instruction's word decodes to it. The other way round goes word
space by word space: what each partial decoder accepts, as an equation for the word it was given, and then the
decoder's rows. -/

namespace Sys2Proof

open Sys2Proof.Laws

/-! ## What a partial decoder accepts -/

theorem extract_one {n : Nat} (w : BitVec n) (k : Nat) : w.extractLsb' k 1 = BitVec.ofBool (w.getLsbD k) := by
  apply BitVec.eq_of_getLsbD_eq
  intro i hi
  obtain rfl : i = 0 := by omega
  simp

theorem map_eq_ok_iff {ε α β : Type} {x : Except ε α} {f : α → β} {b : β} :
    x.map f = .ok b ↔ ∃ a, x = .ok a ∧ f a = b := by
  cases x <;> simp [Except.map]

theorem bind_eq_ok_iff {ε α β : Type} {x : Except ε α} {f : α → Except ε β} {b : β} :
    x.bind f = .ok b ↔ ∃ a, x = .ok a ∧ f a = .ok b := by
  cases x <;> simp [Except.bind]

theorem ifNoValue_eq_ok_iff {v : Word} {i j : Instr} : ifNoValue v i = .ok j ↔ v = 0#32 ∧ i = j := by
  unfold ifNoValue
  split <;> simp [*]

theorem ifNoOperand_eq_ok_iff {w : EntryWord} {i j : Instr} :
    ifNoOperand w i = .ok j ↔ w.extractLsb' 0 56 = 0#56 ∧ i = j := by
  unfold ifNoOperand
  split <;> simp [*]

/-- A port's address field is the port under a zero byte. -/
theorem port_of_portOfAddr {a : BitVec 24} {p : BitVec 16} (h : portOfAddr a = .ok p) : 0#8 ++ p = a := by
  unfold portOfAddr at h
  split at h
  · next hz =>
    cases h
    rw [← hz]
    exact join_two (m := 8) (n := 16) a
  · cases h

theorem bytes_of_widthOfBytes {n : BitVec 8} {wd : Width} (h : widthOfBytes n = .ok wd) :
    BitVec.ofNat 8 wd.bytes = n := by
  unfold widthOfBytes at h
  split_ifs at h with h1 h2 h4
  · cases h; exact h1.symm
  · cases h; exact h2.symm
  · cases h; exact h4.symm

/-! ## Register words -/

/-- A property of every code of a field, from its numbers. -/
theorem code_cases {n : Nat} {P : BitVec n → Prop} (code : ∀ k < 2 ^ n, P (BitVec.ofNat n k)) (c : BitVec n) : P c := by
  have hc := code c.toNat c.isLt
  rwa [BitVec.ofNat_toNat, BitVec.setWidth_eq] at hc

theorem encode_decodeCmd (w : BitVec 16) : encode (decodeCmd w) = (.cmd, w.setWidth 64) := by
  obtain ⟨c, lo, rfl⟩ : ∃ (c : BitVec 3) (lo : BitVec 13), w = cmdWord c lo :=
    ⟨_, _, (join_two (m := 3) (n := 13) w).symm⟩
  rw [decode_cmd_word]
  cases c using code_cases with
  | code k hk => interval_cases k <;> rfl

theorem encode_decodeMix (w : BitVec 16) : encode (decodeMix w) = (.mix, w.setWidth 64) := by
  obtain ⟨hi, c, rfl⟩ : ∃ (hi : BitVec 12) (c : BitVec 4), w = hi ++ c :=
    ⟨_, _, (join_two (m := 12) (n := 4) w).symm⟩
  rw [decode_mix_word]
  cases c using code_cases with
  | code k hk => interval_cases k <;> rfl

theorem encode_decodeMultifunc (w : BitVec 16) : encode (decodeMultifunc w) = (.multifunc, w.setWidth 64) := by
  obtain ⟨c, data, rfl⟩ : ∃ (c : BitVec 4) (data : Slot12), w = c ++ data :=
    ⟨_, _, (join_two (m := 4) (n := 12) w).symm⟩
  rw [decode_multifunc_word]
  cases c using code_cases with
  | code k hk => interval_cases k <;> rfl

theorem encode_decodeSrc (w : BitVec 16) : encode (decodeSrc w) = (.src, w.setWidth 64) := by
  obtain ⟨hi, c, lo, rfl⟩ : ∃ (hi : BitVec 9) (c : BitVec 2) (lo : BitVec 5), w = hi ++ c ++ lo :=
    ⟨_, _, _, (join_three (m := 9) (n := 2) (k := 5) w).symm⟩
  rw [decode_src_word]
  cases c using code_cases with
  | code k hk => interval_cases k <;> rfl

theorem encode_decodeMixSel (w : BitVec 12) : encode (decodeMixSel w) = (.mixSel, w.setWidth 64) := by
  obtain ⟨hi, c, lo, rfl⟩ : ∃ (hi : BitVec 4) (c : BitVec 2) (lo : BitVec 6), w = hi ++ c ++ lo :=
    ⟨_, _, _, (join_three (m := 4) (n := 2) (k := 6) w).symm⟩
  rw [decode_mixSel_word]
  cases c using code_cases with
  | code k hk => interval_cases k <;> rfl

theorem encode_decodeCmp (w : BitVec 12) : encode (decodeCmp w) = (.cmp, w.setWidth 64) := by
  obtain ⟨hi, c, lo, rfl⟩ : ∃ (hi : BitVec 3) (c : BitVec 2) (lo : BitVec 7), w = hi ++ c ++ lo :=
    ⟨_, _, _, (join_three (m := 3) (n := 2) (k := 7) w).symm⟩
  rw [decode_cmp_word]
  cases c using code_cases with
  | code k hk => interval_cases k <;> rfl

/-- A word of a Line's class from its fields. -/
theorem lineWord_fields {w : BitVec 16} (h : w.extractLsb' 13 3 = 1#3) :
    lineWord (w.extractLsb' 4 9) (w.extractLsb' 3 1) (w.extractLsb' 0 3) = w := by
  rw [lineWord, ← h, BitVec.extractLsb'_append_extractLsb'_eq_extractLsb' (by rfl),
    BitVec.extractLsb'_append_extractLsb'_eq_extractLsb' (by rfl)]
  exact join_two (m := 13) (n := 3) w

theorem encode_of_decodeLineMode {w : BitVec 16} {i : Instr} (h : decodeLineMode w = .ok i) :
    encode i = (.lineMode, w.setWidth 64) := by
  have hclass : w.extractLsb' 13 3 = 1#3 := by
    by_contra hc
    simp [decodeLineMode, hc] at h
  obtain ⟨hi, r, lo, rfl⟩ : ∃ (hi : BitVec 9) (r : BitVec 1) (lo : BitVec 3), w = lineWord hi r lo :=
    ⟨_, _, _, (lineWord_fields hclass).symm⟩
  rw [decode_line_word] at h
  cases r using code_cases with
  | code k hk => interval_cases k <;> cases h <;> rfl

/-- A space whose words are `n` bits wide, from the way back of its rows. -/
theorem encode_of_lowBits {n : Nat} {sp : WordSpace} {f : BitVec n → Instr} {w : EntryWord} {i : Instr}
    (hf : ∀ v, encode (f v) = (sp, v.setWidth 64)) (h : (lowBits n w).map f = .ok i) : encode i = (sp, w) := by
  obtain ⟨v, hv, rfl⟩ := map_eq_ok_iff.1 h
  rw [hf, setWidth_of_lowBits hv]

/-! ## Packed words: entries, accesses and agents' steps -/

/-- A packed word from its type code and the other two fields. -/
theorem packEntry_of_type {w : EntryWord} {n : Nat} (h : (entryType w).toNat = n) :
    packEntry (BitVec.ofNat 8 n) (entryOffset w) (entryPayload w) = w := by
  rw [← h, BitVec.ofNat_toNat, BitVec.setWidth_eq, packEntry_fields]

theorem encode_of_decodeEntry {w : EntryWord} {i : Instr} (h : decodeEntry w = .ok i) : encode i = (.entry, w) := by
  unfold decodeEntry at h
  split at h
  case h_8 => cases h -- a reserved type code
  all_goals
    next hty =>
    cases h
    exact congrArg (Prod.mk _) (packEntry_of_type hty)

theorem encode_of_decodeAccess {w : EntryWord} {i : Instr} (h : decodeAccess w = .ok i) : encode i = (.access, w) := by
  unfold decodeAccess at h
  split at h
  case h_13 => cases h -- a code of no row
  case h_1 hty | h_2 hty | h_3 hty => -- mapped writes
    cases h
    exact congrArg (Prod.mk _) (packEntry_of_type hty)
  case h_4 hty | h_5 hty | h_6 hty => -- port writes
    obtain ⟨p, hp, rfl⟩ := map_eq_ok_iff.1 h
    refine congrArg (Prod.mk _) ?_
    rw [port_of_portOfAddr hp]
    exact packEntry_of_type hty
  case h_7 hty | h_8 hty | h_9 hty => -- mapped reads
    obtain ⟨hv, rfl⟩ := ifNoValue_eq_ok_iff.1 h
    refine congrArg (Prod.mk _) ?_
    rw [← hv]
    exact packEntry_of_type hty
  case h_10 hty | h_11 hty | h_12 hty => -- port reads
    obtain ⟨p, hp, hread⟩ := bind_eq_ok_iff.1 h
    obtain ⟨hv, rfl⟩ := ifNoValue_eq_ok_iff.1 hread
    refine congrArg (Prod.mk _) ?_
    rw [port_of_portOfAddr hp, ← hv]
    exact packEntry_of_type hty

/-- The word of a step without operands. -/
theorem packEntry_of_noOperand {w : EntryWord} {n : Nat} (h : (entryType w).toNat = n)
    (h0 : w.extractLsb' 0 56 = 0#56) : packEntry (BitVec.ofNat 8 n) 0#24 0#32 = w := by
  have hfields : entryOffset w ++ entryPayload w = 0#56 :=
    (BitVec.extractLsb'_append_extractLsb'_eq_extractLsb' (by rfl)).trans h0
  have hoff : entryOffset w = 0#24 := by
    rw [← high_of_two (entryOffset w) (entryPayload w), hfields]; rfl
  have hpay : entryPayload w = 0#32 := by
    rw [← low_of_two (entryOffset w) (entryPayload w), hfields]; rfl
  rw [← hoff, ← hpay]
  exact packEntry_of_type h

/-- What a read step's word must hold to name an access. -/
theorem decodeReadAccess_fields {w : EntryWord} {a : Access} (h : decodeReadAccess w = .ok a) :
    w.extractLsb' 9 23 = 0#23 ∧ entryOffset w = a.addr ∧ w.extractLsb' 8 1 = spaceBit a.space ∧
      w.extractLsb' 0 8 = BitVec.ofNat 8 a.width.bytes := by
  unfold decodeReadAccess at h
  split at h
  · next hzero =>
    obtain ⟨wd, hwd, hspace⟩ := bind_eq_ok_iff.1 h
    have hbytes := (bytes_of_widthOfBytes hwd).symm
    rw [extract_one]
    split at hspace
    · next hbit =>
      obtain ⟨p, -, rfl⟩ := map_eq_ok_iff.1 hspace
      exact ⟨hzero, rfl, by rw [hbit]; rfl, hbytes⟩
    · next hbit =>
      cases hspace
      exact ⟨hzero, rfl, by rw [Bool.eq_false_of_not_eq_true hbit]; rfl, hbytes⟩
  · cases h

/-- A read step's word from its code and its access. -/
theorem packReadAccess_of_decode {w : EntryWord} {n : Nat} {a : Access} (hty : (entryType w).toNat = n)
    (h : decodeReadAccess w = .ok a) : packReadAccess (BitVec.ofNat 8 n) a = w := by
  obtain ⟨hzero, haddr, hspace, hbytes⟩ := decodeReadAccess_fields h
  rw [packReadAccess_eq, ← hty, ← hzero, ← haddr, ← hspace, ← hbytes, BitVec.ofNat_toNat, BitVec.setWidth_eq,
    entryType, entryOffset, BitVec.extractLsb'_append_extractLsb'_eq_extractLsb' (by rfl),
    BitVec.extractLsb'_append_extractLsb'_eq_extractLsb' (by rfl),
    BitVec.extractLsb'_append_extractLsb'_eq_extractLsb' (by rfl)]
  exact join_two (m := 56) (n := 8) w

/-- The word of CONFIG from its three values. -/
theorem config_fields {w : EntryWord} (h : (entryType w).toNat = 11) :
    11#8 ++ BitVec.ofNat 32 (w.extractLsb' 24 32).toNat ++ BitVec.ofNat 16 (w.extractLsb' 8 16).toNat ++
      BitVec.ofNat 8 (w.extractLsb' 0 8).toNat = w := by
  have hty : w.extractLsb' 56 8 = 11#8 := BitVec.eq_of_toNat_eq h
  simp only [BitVec.ofNat_toNat, BitVec.setWidth_eq]
  rw [← hty, BitVec.extractLsb'_append_extractLsb'_eq_extractLsb' (by rfl),
    BitVec.extractLsb'_append_extractLsb'_eq_extractLsb' (by rfl)]
  exact join_two (m := 56) (n := 8) w

theorem encode_of_decodeAgent {w : EntryWord} {i : Instr} (h : decodeAgent w = .ok i) : encode i = (.agent, w) := by
  unfold decodeAgent at h
  split at h
  case h_13 => cases h -- a code of no row
  case h_11 hty => -- CONFIG
    cases h
    exact congrArg (Prod.mk _) (config_fields hty)
  case h_7 hty | h_8 hty => -- the two reads
    obtain ⟨a, ha, rfl⟩ := map_eq_ok_iff.1 h
    exact congrArg (Prod.mk _) (packReadAccess_of_decode hty ha)
  all_goals -- the steps without operands
    next hty =>
    obtain ⟨h0, rfl⟩ := ifNoOperand_eq_ok_iff.1 h
    exact congrArg (Prod.mk _) (packEntry_of_noOperand hty h0)

/-! ## Byte words -/

/-- A port is its slot's base and its lane. -/
theorem slot_add_lane (p : BitVec 16) : (p &&& 0xFFFC#16) + (p.setWidth 2).setWidth 16 = p := by
  rw [BitVec.add_eq_or_of_and_eq_zero]
  all_goals
    ext i hi
    interval_cases i <;> simp

/-- The ports of the map (30 R110, R112). -/
theorem decodePort_cases (p : BitVec 16) :
    decodePort p = .none ∨ (∃ (r : RegName) (lane : BitVec 2), p = r.port lane) ∨
      ∃ lane : BitVec 2, p = pixTransBase + lane.setWidth 16 := by
  unfold decodePort
  split_ifs with hpix
  · refine .inr (.inr ⟨p.setWidth 2, ?_⟩)
    rw [← hpix, slot_add_lane]
  · split
    · next r hr =>
      have hbase : r.base = p &&& 0xFFFC#16 := by simpa using List.find?_some hr
      refine .inr (.inl ⟨r, p.setWidth 2, ?_⟩)
      rw [RegName.port, hbase, slot_add_lane]
    · exact .inl rfl

/-- A byte address is in the pixel-transfer window, or is read as a port, or is past the map (30 R112, R113). -/
theorem byteAddr_forms (a : ByteAddr) :
    (∃ o : BitVec 15, a = .mapped o.toNat) ∨
      (∃ (sp : BusSpace) (p : BitVec 16), a = laneAddr sp p ∧ decodeAddr a = decodePort p) ∨ decodeAddr a = .none := by
  cases a with
  | port p => exact .inr (.inl ⟨.port, p, rfl, rfl⟩)
  | mapped o =>
    by_cases hhigh : 0x10000 ≤ o
    · exact .inr (.inr (if_pos hhigh))
    by_cases hlow : o < 0x8000
    · exact .inl ⟨BitVec.ofNat 15 o, by rw [BitVec.toNat_ofNat, Nat.mod_eq_of_lt (by omega)]⟩
    refine .inr (.inl ⟨.mapped, BitVec.ofNat 16 o, ?_, ?_⟩)
    · rw [laneAddr, BitVec.toNat_ofNat, Nat.mod_eq_of_lt (by omega)]
    · exact (if_neg hhigh).trans (if_neg hlow)

/-- What stands at a byte address: nothing, a register's lane, a lane of PIX_TRANS, or the pixel-transfer window. -/
theorem byteAddr_cases (a : ByteAddr) :
    decodeAddr a = .none ∨ (∃ (r : RegName) (sp : BusSpace) (lane : BitVec 2), a = laneAddr sp (r.port lane)) ∨
      (∃ (sp : BusSpace) (lane : BitVec 2), a = laneAddr sp (pixTransBase + lane.setWidth 16)) ∨
      ∃ o : BitVec 15, a = .mapped o.toNat := by
  rcases byteAddr_forms a with hwindow | ⟨sp, p, rfl, hp⟩ | hnone
  · exact .inr (.inr (.inr hwindow))
  · rcases decodePort_cases p with hnone | ⟨r, lane, rfl⟩ | ⟨lane, rfl⟩
    · exact .inl (hp.trans hnone)
    · exact .inr (.inl ⟨r, sp, lane, rfl⟩)
    · exact .inr (.inr (.inl ⟨sp, lane, rfl⟩))
  · exact .inl hnone

theorem encode_wInstr (r : RegName) (sp : BusSpace) (lane : BitVec 2) (b : Byte) :
    encode (wInstr r sp lane b) = encodeW r sp lane b := by
  cases r <;> rfl

theorem encode_rInstr (r : RegName) (sp : BusSpace) (lane : BitVec 2) :
    encode (rInstr r sp lane) = encodeR r sp lane := by
  cases r <;> rfl

theorem encode_byteWriteInstr (a : ByteAddr) (b : Byte) : encode (byteWriteInstr a b) = (.byteWrite, packByte a b) := by
  rcases byteAddr_cases a with hnone | ⟨r, sp, lane, rfl⟩ | ⟨sp, lane, rfl⟩ | ⟨o, rfl⟩
  · rw [byteWriteInstr, hnone]; rfl
  · rw [byteWriteInstr, decodeAddr_lane, space_laneAddr]
    exact encode_wInstr r sp lane b
  · rw [byteWriteInstr_pixTrans]; rfl
  · rw [byteWriteInstr_window]; rfl

theorem encode_byteReadInstr (a : ByteAddr) : encode (byteReadInstr a) = (.byteRead, packByte a 0#8) := by
  rcases byteAddr_cases a with hnone | ⟨r, sp, lane, rfl⟩ | ⟨sp, lane, rfl⟩ | ⟨o, rfl⟩
  · rw [byteReadInstr, hnone]; rfl
  · rw [byteReadInstr, decodeAddr_lane, space_laneAddr]
    exact encode_rInstr r sp lane
  · rw [byteReadInstr_pixTrans]; rfl
  · rw [byteReadInstr_window]; rfl

/-- A byte word from its address and its byte. -/
theorem packByte_of_decode {w : EntryWord} {a : ByteAddr} (h : decodeByteAddr w = .ok a) :
    packByte a (w.extractLsb' 24 8) = w := by
  have hfields : w.extractLsb' 33 31 ++ w.extractLsb' 32 1 ++ w.extractLsb' 24 8 ++ w.extractLsb' 0 24 = w := by
    rw [BitVec.extractLsb'_append_extractLsb'_eq_extractLsb' (by rfl),
      BitVec.extractLsb'_append_extractLsb'_eq_extractLsb' (by rfl)]
    exact join_two (m := 40) (n := 24) w
  unfold decodeByteAddr at h
  split at h
  · next hzero =>
    rw [hzero, extract_one] at hfields
    split at h
    · next hbit =>
      obtain ⟨p, hp, rfl⟩ := map_eq_ok_iff.1 h
      rw [packByte_port_eq, port_of_portOfAddr hp]
      rwa [hbit] at hfields
    · next hbit =>
      cases h
      rw [packByte, BitVec.ofNat_toNat, BitVec.setWidth_eq]
      rwa [Bool.eq_false_of_not_eq_true hbit] at hfields
  · cases h

theorem encode_of_decodeByteWrite {w : EntryWord} {i : Instr} (h : decodeByteWrite w = .ok i) :
    encode i = (.byteWrite, w) := by
  obtain ⟨a, ha, rfl⟩ := map_eq_ok_iff.1 h
  rw [encode_byteWriteInstr, packByte_of_decode ha]

theorem encode_of_decodeByteRead {w : EntryWord} {i : Instr} (h : decodeByteRead w = .ok i) :
    encode i = (.byteRead, w) := by
  unfold decodeByteRead at h
  split at h
  · next hzero =>
    obtain ⟨a, ha, rfl⟩ := map_eq_ok_iff.1 h
    rw [encode_byteReadInstr, ← hzero, packByte_of_decode ha]
  · cases h

/-! ## The two ways round -/

/-- Settles O2: one way back for each word space. -/
theorem decodeThenEncodeReturnsTheWord : Obligations.DecodeThenEncodeReturnsTheWord := by
  intro sp w i h
  cases sp with
  | entry => exact encode_of_decodeEntry h
  | access => exact encode_of_decodeAccess h
  | byteWrite => exact encode_of_decodeByteWrite h
  | byteRead => exact encode_of_decodeByteRead h
  | cmd => exact encode_of_lowBits encode_decodeCmd h
  | lineMode =>
    obtain ⟨v, hv, hline⟩ := bind_eq_ok_iff.1 h
    rw [encode_of_decodeLineMode hline, setWidth_of_lowBits hv]
  | mix => exact encode_of_lowBits encode_decodeMix h
  | src => exact encode_of_lowBits encode_decodeSrc h
  | mixSel => exact encode_of_lowBits encode_decodeMixSel h
  | cmp => exact encode_of_lowBits encode_decodeCmp h
  | multifunc => exact encode_of_lowBits encode_decodeMultifunc h
  | agent => exact encode_of_decodeAgent h

/-- Every row's law, together. -/
theorem roundTrip (i : Instr) : RoundTrip.Statement i := by
  cases i with
  | entryInvalid off payload => exact RoundTrip.entryInvalid off payload
  | entryWriteByte off payload => exact RoundTrip.entryWriteByte off payload
  | entryWriteWord off payload => exact RoundTrip.entryWriteWord off payload
  | entryWriteDword off payload => exact RoundTrip.entryWriteDword off payload
  | entryOutByte off payload => exact RoundTrip.entryOutByte off payload
  | entryOutWord off payload => exact RoundTrip.entryOutWord off payload
  | entryOutDword off payload => exact RoundTrip.entryOutDword off payload
  | write8 o v => exact RoundTrip.write8 o v
  | write16 o v => exact RoundTrip.write16 o v
  | write32 o v => exact RoundTrip.write32 o v
  | out8 p v => exact RoundTrip.out8 p v
  | out16 p v => exact RoundTrip.out16 p v
  | out32 p v => exact RoundTrip.out32 p v
  | read8 o => exact RoundTrip.read8 o
  | read16 o => exact RoundTrip.read16 o
  | read32 o => exact RoundTrip.read32 o
  | in8 p => exact RoundTrip.in8 p
  | in16 p => exact RoundTrip.in16 p
  | in32 p => exact RoundTrip.in32 p
  | wCurY sp lane b => exact RoundTrip.wCurY sp lane b
  | wCurX sp lane b => exact RoundTrip.wCurX sp lane b
  | wDestyAxstp sp lane b => exact RoundTrip.wDestyAxstp sp lane b
  | wDestxDiastp sp lane b => exact RoundTrip.wDestxDiastp sp lane b
  | wErrTerm sp lane b => exact RoundTrip.wErrTerm sp lane b
  | wMajAxisPcnt sp lane b => exact RoundTrip.wMajAxisPcnt sp lane b
  | wCmd sp lane b => exact RoundTrip.wCmd sp lane b
  | wShortStroke sp lane b => exact RoundTrip.wShortStroke sp lane b
  | wBkgdColor sp lane b => exact RoundTrip.wBkgdColor sp lane b
  | wFrgdColor sp lane b => exact RoundTrip.wFrgdColor sp lane b
  | wWrtMask sp lane b => exact RoundTrip.wWrtMask sp lane b
  | wRdMask sp lane b => exact RoundTrip.wRdMask sp lane b
  | wColorCmp sp lane b => exact RoundTrip.wColorCmp sp lane b
  | wBkgdMix sp lane b => exact RoundTrip.wBkgdMix sp lane b
  | wFrgdMix sp lane b => exact RoundTrip.wFrgdMix sp lane b
  | wMultifuncCntl sp lane b => exact RoundTrip.wMultifuncCntl sp lane b
  | wPixTrans sp lane b => exact RoundTrip.wPixTrans sp lane b
  | wPixTransWindow o b => exact RoundTrip.wPixTransWindow o b
  | wNone a b => exact RoundTrip.wNone a b
  | rCurY sp lane => exact RoundTrip.rCurY sp lane
  | rCurX sp lane => exact RoundTrip.rCurX sp lane
  | rDestyAxstp sp lane => exact RoundTrip.rDestyAxstp sp lane
  | rDestxDiastp sp lane => exact RoundTrip.rDestxDiastp sp lane
  | rErrTerm sp lane => exact RoundTrip.rErrTerm sp lane
  | rMajAxisPcnt sp lane => exact RoundTrip.rMajAxisPcnt sp lane
  | rGpStat sp lane => exact RoundTrip.rGpStat sp lane
  | rShortStroke sp lane => exact RoundTrip.rShortStroke sp lane
  | rBkgdColor sp lane => exact RoundTrip.rBkgdColor sp lane
  | rFrgdColor sp lane => exact RoundTrip.rFrgdColor sp lane
  | rWrtMask sp lane => exact RoundTrip.rWrtMask sp lane
  | rRdMask sp lane => exact RoundTrip.rRdMask sp lane
  | rColorCmp sp lane => exact RoundTrip.rColorCmp sp lane
  | rBkgdMix sp lane => exact RoundTrip.rBkgdMix sp lane
  | rFrgdMix sp lane => exact RoundTrip.rFrgdMix sp lane
  | rMultifunc sp lane => exact RoundTrip.rMultifunc sp lane
  | rPixTrans sp lane => exact RoundTrip.rPixTrans sp lane
  | rPixTransWindow o => exact RoundTrip.rPixTransWindow o
  | rNone a => exact RoundTrip.rNone a
  | cmdNop lo => exact RoundTrip.cmdNop lo
  | cmdLine lo => exact RoundTrip.cmdLine lo
  | cmdRect lo => exact RoundTrip.cmdRect lo
  | cmdRsv3 lo => exact RoundTrip.cmdRsv3 lo
  | cmdRsv4 lo => exact RoundTrip.cmdRsv4 lo
  | cmdRsv5 lo => exact RoundTrip.cmdRsv5 lo
  | cmdBlit lo => exact RoundTrip.cmdBlit lo
  | cmdPat lo => exact RoundTrip.cmdPat lo
  | cmdLineBresenham hi lo => exact RoundTrip.cmdLineBresenham hi lo
  | cmdLineRadial hi lo => exact RoundTrip.cmdLineRadial hi lo
  | mixNotD hi => exact RoundTrip.mixNotD hi
  | mixZero hi => exact RoundTrip.mixZero hi
  | mixOne hi => exact RoundTrip.mixOne hi
  | mixD hi => exact RoundTrip.mixD hi
  | mixNotS hi => exact RoundTrip.mixNotS hi
  | mixSXorD hi => exact RoundTrip.mixSXorD hi
  | mixSXnorD hi => exact RoundTrip.mixSXnorD hi
  | mixS hi => exact RoundTrip.mixS hi
  | mixSNandD hi => exact RoundTrip.mixSNandD hi
  | mixNotSOrD hi => exact RoundTrip.mixNotSOrD hi
  | mixSOrNotD hi => exact RoundTrip.mixSOrNotD hi
  | mixSOrD hi => exact RoundTrip.mixSOrD hi
  | mixSAndD hi => exact RoundTrip.mixSAndD hi
  | mixSAndNotD hi => exact RoundTrip.mixSAndNotD hi
  | mixNotSAndD hi => exact RoundTrip.mixNotSAndD hi
  | mixSNorD hi => exact RoundTrip.mixSNorD hi
  | srcBkgdColor hi lo => exact RoundTrip.srcBkgdColor hi lo
  | srcFrgdColor hi lo => exact RoundTrip.srcFrgdColor hi lo
  | srcCpuData hi lo => exact RoundTrip.srcCpuData hi lo
  | srcDisplayMemory hi lo => exact RoundTrip.srcDisplayMemory hi lo
  | mixselAlwaysFg hi lo => exact RoundTrip.mixselAlwaysFg hi lo
  | mixselReservedAs0 hi lo => exact RoundTrip.mixselReservedAs0 hi lo
  | mixselCpuData hi lo => exact RoundTrip.mixselCpuData hi lo
  | mixselDisplayMemory hi lo => exact RoundTrip.mixselDisplayMemory hi lo
  | cmpAlways hi lo => exact RoundTrip.cmpAlways hi lo
  | cmpNever hi lo => exact RoundTrip.cmpNever hi lo
  | cmpNe hi lo => exact RoundTrip.cmpNe hi lo
  | cmpEq hi lo => exact RoundTrip.cmpEq hi lo
  | mfMinAxisPcnt data => exact RoundTrip.mfMinAxisPcnt data
  | mfScissorsT data => exact RoundTrip.mfScissorsT data
  | mfScissorsL data => exact RoundTrip.mfScissorsL data
  | mfScissorsB data => exact RoundTrip.mfScissorsB data
  | mfScissorsR data => exact RoundTrip.mfScissorsR data
  | mfSlot5 data => exact RoundTrip.mfSlot5 data
  | mfSlot6 data => exact RoundTrip.mfSlot6 data
  | mfSlot7 data => exact RoundTrip.mfSlot7 data
  | mfSlot8 data => exact RoundTrip.mfSlot8 data
  | mfSlot9 data => exact RoundTrip.mfSlot9 data
  | mfPixCntl data => exact RoundTrip.mfPixCntl data
  | mfSlotb data => exact RoundTrip.mfSlotb data
  | mfSlotc data => exact RoundTrip.mfSlotc data
  | mfSlotd data => exact RoundTrip.mfSlotd data
  | mfMultMisc data => exact RoundTrip.mfMultMisc data
  | mfReadSel data => exact RoundTrip.mfReadSel data
  | enqueue => exact RoundTrip.enqueue
  | enqueueFull => exact RoundTrip.enqueueFull
  | dequeueExecute => exact RoundTrip.dequeueExecute
  | wake => exact RoundTrip.wake
  | empty => exact RoundTrip.empty
  | stop => exact RoundTrip.stop
  | statusRead a => exact RoundTrip.statusRead a
  | drainedRead a => exact RoundTrip.drainedRead a
  | waitIdle => exact RoundTrip.waitIdle
  | reportUtilization => exact RoundTrip.reportUtilization
  | config pb pitch vramBytes => exact RoundTrip.config pb pitch vramBytes
  | close => exact RoundTrip.close

/-- Settles O1, by the rows' laws. -/
theorem encodeThenDecodeReturnsTheInstruction : Obligations.EncodeThenDecodeReturnsTheInstruction := roundTrip

/-! ## The spec's words -/

/-- Settles O3: each word, evaluated. -/
theorem specWordsDecode : Obligations.SpecWordsDecode := by
  unfold Obligations.SpecWordsDecode
  decide

end Sys2Proof

namespace Sys2Proof.Machine

open Sys2Proof

/-! ## The status word -/

/-- A byte of the CMD slot is that byte of GP_STAT (42 R240, R241). -/
theorem readByte_cmd (s : State) (lane : BitVec 2) :
    s.readByte (.reg .cmd lane) = s.gpStat.extractLsb' (8 * lane.toNat) 8 := by
  show (s.gpStat.setWidth 32).extractLsb' (8 * lane.toNat) 8 = _
  apply BitVec.eq_of_getLsbD_eq
  intro k hk
  have hlane := lane.isLt
  have hbit : 8 * lane.toNat + k < 32 := by omega
  simp [hbit]

/-- The unused lanes of the CMD slot are above GP_STAT's bits. -/
theorem readByte_cmd_unused (s : State) {lane : BitVec 2} (h : unusedLane lane = true) :
    s.readByte (.reg .cmd lane) = 0x00#8 := by
  have hlane : 2 ≤ lane.toNat := of_decide_eq_true h
  rw [readByte_cmd]
  apply BitVec.eq_of_getLsbD_eq
  intro k hk
  rw [BitVec.getLsbD_extractLsb', BitVec.getLsbD_of_ge s.gpStat _ (by omega), Bool.and_false, BitVec.getLsbD_zero]

/-- The fields of GP_STAT, full or not and working or not (30 R136). -/
theorem gpStat_fields (s : State) :
    s.gpStat.extractLsb' 0 8 = (if s.occupancy = s.params.qcap then 0xFF#8 else 0x00#8) ∧
      s.gpStat.getLsbD 9 = decide (s.busy = true ∨ 0 < s.occupancy) ∧
      s.gpStat.getLsbD 8 = false ∧ s.gpStat.extractLsb' 10 6 = 0#6 := by
  rw [gpStat_eq]
  split_ifs with hfull hwork hwork
  all_goals
    simp only [hwork, decide_true, decide_false]
    decide

/-- Settles O27: the word's fields, and its bytes read from the CMD slot. -/
theorem statusWordFields : Obligations.StatusWordFields := by
  intro s
  obtain ⟨hfull, hwork, hbit8, hhigh⟩ := gpStat_fields s
  exact ⟨hfull, hwork, hbit8, hhigh, readByte_cmd s 0#2, readByte_cmd s 1#2, readByte_cmd_unused s rfl,
    readByte_cmd_unused s rfl⟩

end Sys2Proof.Machine

/-! # The command queue

ENQUEUE and its hold, DEQUEUE-EXECUTE, first in first out, and the model fault: the few instructions that may
record it, and why none does where the cursors keep their order and distance. -/

namespace Sys2Proof.Machine

open Sys2Proof

/-! ## ENQUEUE -/

section Enqueue

variable {s : State} {e : EntryWord} {rest : List EntryWord}

theorem full_of_eq (h : s.queue.wr - s.queue.rd = s.params.qcap) : s.full = true := s.full_iff.2 h

theorem not_full_of_ne (h : s.queue.wr - s.queue.rd ≠ s.params.qcap) : s.full = false :=
  Bool.eq_false_iff.2 fun hf => h (s.full_iff.1 hf)

/-- The first ENQUEUE of an access on a full queue begins the hold (40 R152). -/
theorem enqueueFirst_full (h : s.queue.wr - s.queue.rd = s.params.qcap) :
    s.enqueueFirst (e :: rest) = .next { s with wakePending := true, pstate := .waitRoom true (e :: rest) } := by
  unfold State.enqueueFirst
  dsimp only
  rw [if_pos (full_of_eq h)]
  rfl

/-- The first ENQUEUE of an access with room (40 R151). -/
theorem enqueueFirst_room (hs : queueOk s) (h : s.queue.wr - s.queue.rd < s.params.qcap) :
    s.enqueueFirst (e :: rest) = .next (s.enqueued e (if rest = [] then .ready else .waitRoom false rest)) := by
  obtain ⟨-, hle, -, -⟩ := hs
  rcases s.enqueueFirst_cases (e :: rest) with ⟨hnil, -⟩ | ⟨e', rest', heq, hcase⟩
  · cases hnil
  · cases heq
    rcases hcase with ⟨hfull, -⟩ | ⟨-, hbad, -⟩ | ⟨-, -, -, hroom⟩
    · omega
    · omega
    · exact hroom

/-- ENQUEUE with its slot as the spec writes it: `q.wr & QMASK` (40 R151). -/
theorem enqueued_eq (hv : validParams s.params) (e : EntryWord) (p : PState) :
    s.enqueued e p = { s with
      queue := { s.queue with
        slots := s.queue.slots.set (s.queue.wr &&& (s.params.qcap - 1)) e, wr := s.queue.wr + 1 }
      wakePending := s.wakePending ||
        decide (s.queue.wr + 1 - s.queue.rd > s.params.qcap - s.params.qcap / 8 ∨ s.queue.wr + 1 - s.queue.rd < 8)
      pstate := p } := by
  rw [ring_and hv]
  rfl

variable {held : Bool} {pending : List EntryWord}

theorem execEnqueue_waitRoom (h : s.pstate = .waitRoom held pending) :
    execEnqueue s = if s.full || (held && s.stop) then .next s else s.enqueueFirst pending := by
  unfold execEnqueue
  rw [h]

/-- ENQUEUE.FULL between two ENQUEUEs of an access looks for room. -/
theorem execEnqueueFull_pause (h : s.pstate = .waitRoom false pending) :
    execEnqueueFull s = if s.full then s.enqueueFirst pending else .next s := by
  unfold execEnqueueFull
  rw [h]
  rfl

/-- ENQUEUE.FULL in a hold looks at `stop` first, then for room (40 R152). -/
theorem execEnqueueFull_hold (h : s.pstate = .waitRoom true pending) :
    execEnqueueFull s =
      if s.stop then .next (s.withPState .ready) else if s.full then .next s else s.enqueueFirst pending := by
  unfold execEnqueueFull
  rw [h]
  rfl

end Enqueue

/-- Settles O14: `stop` lifts a hold, and otherwise room lets the first ENQUEUE go on. -/
theorem enqueueWithRoom : Obligations.EnqueueWithRoom := by
  intro s held e rest hv hs hw hroom
  have hexec : exec .enqueue s = if s.full || (held && s.stop) then .next s else s.enqueueFirst (e :: rest) :=
    execEnqueue_waitRoom hw
  rw [not_full_of_ne (Nat.ne_of_lt hroom), Bool.false_or] at hexec
  constructor
  · intro hheld hstop
    rw [hexec, hheld, hstop]
    rfl
  · intro hnot
    have hgo : (held && s.stop) = false := Bool.and_eq_false_iff.2 hnot
    rw [hexec, hgo, ← enqueued_eq hv]
    exact enqueueFirst_room hs hroom

/-- Settles O15: the hold begins, is lifted by `stop`, goes on while the queue is full, and ends with room. -/
theorem enqueueOnAFullQueue : Obligations.EnqueueOnAFullQueue := by
  intro s e rest hv hs
  refine ⟨fun hw hfull => ?begins, fun hw hstop => ?lifted, fun hw hstop hfull => ?goesOn,
    fun hw hstop hroom => ?room⟩
  case begins =>
    refine (execEnqueueFull_pause hw).trans ?_
    rw [if_pos (full_of_eq hfull)]
    exact enqueueFirst_full hfull
  case lifted =>
    refine (execEnqueueFull_hold hw).trans ?_
    rw [if_pos hstop]
    rfl
  case goesOn =>
    refine (execEnqueueFull_hold hw).trans ?_
    rw [if_neg (by simp [hstop]), if_pos (full_of_eq hfull)]
  case room =>
    refine (execEnqueueFull_hold hw).trans ?_
    rw [if_neg (by simp [hstop]), if_neg (by simp [not_full_of_ne (Nat.ne_of_lt hroom)]), ← enqueued_eq hv]
    exact enqueueFirst_room hs hroom

/-! ## DEQUEUE-EXECUTE -/

/-- DEQUEUE-EXECUTE while Draining a queue that is not empty (40 R153). -/
theorem execDequeueExecute_draining {s : State} (hs : queueOk s) (hc : s.cstate = .draining)
    (hlt : s.queue.rd < s.queue.wr) : execDequeueExecute s = .next (s.executeWord s.headEntry).popEntry := by
  obtain ⟨-, -, hcap, -⟩ := hs
  rcases execDequeueExecute_cases (s := s) with ⟨-, hidle⟩ | ⟨-, -, ⟨-, hbad⟩ | ⟨hnext, -⟩⟩
  · exact absurd ⟨hc, Nat.ne_of_gt hlt⟩ hidle
  · omega
  · exact hnext

/-- Executing register bytes moves no cursor, so the slot freed afterwards is that of the entry executed. -/
theorem RegRun.popEntry_eq {s u : State} (h : RegRun s u) (hv : validParams s.params) :
    u.popEntry = { u with queue := { s.queue with
      slots := s.queue.slots.set (s.queue.rd &&& (s.params.qcap - 1)) 0#64, rd := s.queue.rd + 1 } } := by
  rw [ring_and hv, ← h.queue, ← h.signalsKept.params]
  rfl

/-- Settles O16: the head entry's instruction is EXECUTE of its word, and the pop comes after it. -/
theorem dequeueExecutesTheHeadEntry : Obligations.DequeueExecutesTheHeadEntry := by
  intro s i hv hs hc hlt hd
  rw [ring_and hv] at hd
  have hdecode : decode .entry s.headEntry = .ok i := hd
  refine ⟨s.executeWord s.headEntry, executeWord_decode hdecode, ?_⟩
  rw [← (executeWord_run s s.headEntry).popEntry_eq hv]
  exact execDequeueExecute_draining hs hc hlt

/-! ## First in, first out -/

/-- The first ENQUEUE of an access adds one entry at the end, or none. -/
theorem enqueueFirst_contents {s t : State} {pending : List EntryWord} (h : s.enqueueFirst pending = .next t)
    (hs : queueOk s) : t.contents = s.contents ∨ ∃ e, t.contents = s.contents ++ [e] := by
  obtain ⟨hlen, hle, hcap, -⟩ := hs
  rcases enqueueFirst_next h with ⟨rfl, -⟩ | ⟨e, rest, -, ⟨rfl, -⟩ | ⟨hn, -, -, rfl⟩⟩
  · exact .inl rfl
  · exact .inl rfl
  · exact .inr ⟨e, (enqueued_pushed s e _).contents hlen hle (by omega)⟩

/-- What an instruction may do to the queued entries: keep them, add one at the end, take the oldest away
(40 R155). -/
inductive FifoChange (i : Instr) (s t : State) : Prop
  | kept (h : t.contents = s.contents)
  | added (e : EntryWord) (h : t.contents = s.contents ++ [e])
      (hi : isWriteAccess i ∨ i = .enqueue ∨ i = .enqueueFull)
  | taken (e : EntryWord) (h : s.contents = e :: t.contents) (hi : i = .dequeueExecute)

theorem enqueueFirst_fifoChange {i : Instr} {s t : State} {pending : List EntryWord}
    (hi : isWriteAccess i ∨ i = .enqueue ∨ i = .enqueueFull) (h : s.enqueueFirst pending = .next t)
    (hs : queueOk s) : FifoChange i s t := by
  rcases enqueueFirst_contents h hs with hkept | ⟨e, hadded⟩
  · exact .kept hkept
  · exact .added e hadded hi

/-- Only ENQUEUEs and DEQUEUE-EXECUTE move a cursor or write a slot. -/
theorem Change.fifoChange {i : Instr} {s t : State} (h : Change i s t) (hs : Sys2Proof.Machine.queueOk s) :
    FifoChange i s t := by
  cases h with
  | bytes _ hr => exact .kept (contents_congr hr.queue (congrArg Params.qcap hr.signalsKept.params))
  | access _ _ _ _ hw _ _ _ he => exact enqueueFirst_fifoChange (.inl hw) he hs
  | goOn _ _ hi _ he => exact enqueueFirst_fifoChange (.inr hi) he hs
  | drained a =>
    exact .kept (contents_congr (readDrained_queue s a) (congrArg Params.qcap (readDrained_signalsKept s a).params))
  | dequeue _ hlt =>
    obtain ⟨hlen, -, hcap, -⟩ := hs
    exact .taken _ ((dequeue_popped s).contents hlen hlt hcap) rfl
  | config pb pitch vb h =>
    obtain ⟨fb, dirty, ctr, heq⟩ := applyConfig_eq (s.withHState h) pb pitch vb
    rw [heq]
    exact .kept rfl
  | same | pipe | discard | status | readReturns | wake | stop | empty | waitIdle | report | close | closed =>
    exact .kept rfl

/-- Settles O13: the three kinds of `FifoChange`, which every `Change` is one of. -/
theorem queueIsFirstInFirstOut : Obligations.QueueIsFirstInFirstOut := by
  intro i s t _ hs h
  cases (exec_change h).fifoChange hs with
  | kept h => exact .inl h
  | added e h hi =>
    refine .inr (.inl ⟨⟨e, h⟩, ?_⟩)
    rcases hi with hw | henq | hfull
    · exact .inr (.inr (isWriteAccess_iff.1 hw))
    · exact .inl henq
    · exact .inr (.inl hfull)
  | taken e h hi => exact .inr (.inr ⟨hi, e, h⟩)

/-! ## The model fault -/

section Fault

variable {s : State} {f : Fault}

theorem next_ne_fault {t : State} : (Host.Outcome.next t : Result) ≠ .fault f := nofun

theorem refused_ne_fault {r : Refusal} : (Host.Outcome.refused r : Result) ≠ .fault f := nofun

/-- Asking for Ready adds no fault of its own: it refuses or goes on (41 R170, R186). -/
theorem ifReady_fault {r : Result} (h : s.ifReady r = .fault f) : r = .fault f := by
  unfold State.ifReady at h
  split_ifs at h
  exact h

theorem issueRead_ne_fault {a : Access} : s.issueRead a ≠ .fault f :=
  fun h => next_ne_fault (ifReady_fault h)

theorem execStatusRead_ne_fault {a : Access} : execStatusRead a s ≠ .fault f := by
  intro h
  unfold execStatusRead at h
  split_ifs at h
  exact next_ne_fault (ifReady_fault h)

theorem execDrainedRead_ne_fault {a : Access} : execDrainedRead a s ≠ .fault f := by
  intro h
  unfold execDrainedRead at h
  split_ifs at h
  exact next_ne_fault (ifReady_fault h)

theorem execConfig_ne_fault {pb pitch vb : Nat} : execConfig pb pitch vb s ≠ .fault f := by
  unfold execConfig
  cases s.hstate with
  | ready | waitIdle => dsimp only; split_ifs <;> nofun
  | waitStopped | waitBoth => nofun

theorem execEnqueue_fault (h : execEnqueue s = .fault f) : ∃ pending, s.enqueueFirst pending = .fault f := by
  cases hp : s.pstate with
  | waitRoom held pending =>
    rw [execEnqueue_waitRoom hp] at h
    split_ifs at h
    exact ⟨pending, h⟩
  | ready | waitDrain => simp [execEnqueue, hp] at h

theorem execEnqueueFull_fault (h : execEnqueueFull s = .fault f) : ∃ pending, s.enqueueFirst pending = .fault f := by
  cases hp : s.pstate with
  | waitRoom held pending =>
    cases held with
    | true =>
      rw [execEnqueueFull_hold hp] at h
      split_ifs at h
      exact ⟨pending, h⟩
    | false =>
      rw [execEnqueueFull_pause hp] at h
      split_ifs at h
      exact ⟨pending, h⟩
  | ready | waitDrain => simp [execEnqueueFull, hp] at h

/-- An agent's step that has its condition or changes nothing. -/
theorem ite_next_ne_fault {c : Prop} [Decidable c] {t u : State} :
    (if c then .next t else .next u : Result) ≠ .fault f := by
  split_ifs
  · exact next_ne_fault
  · exact next_ne_fault

theorem execWaitIdle_ne_fault : execWaitIdle s ≠ .fault f := by
  unfold execWaitIdle
  cases s.hstate <;> exact next_ne_fault

theorem execReportUtilization_ne_fault : execReportUtilization s ≠ .fault f := by
  unfold execReportUtilization
  cases s.hstate <;> exact next_ne_fault

theorem execClose_ne_fault : execClose s ≠ .fault f := by
  unfold execClose
  cases s.hstate <;> exact next_ne_fault

/-- The instructions that may record the fault: those that enqueue and DEQUEUE-EXECUTE (40 R154). -/
theorem exec_fault {i : Instr} (h : exec i s = .fault f) :
    execDequeueExecute s = .fault f ∨ ∃ pending, s.enqueueFirst pending = .fault f := by
  cases i
  case dequeueExecute => exact .inl h
  case enqueue => exact .inr (execEnqueue_fault h)
  case enqueueFull => exact .inr (execEnqueueFull_fault h)
  case write8 | write16 | write32 | out8 | out16 | out32 => exact .inr ⟨_, ifReady_fault h⟩
  case read8 | read16 | read32 | in8 | in16 | in32 | rCurY | rCurX | rDestyAxstp | rDestxDiastp | rErrTerm |
      rMajAxisPcnt | rGpStat | rShortStroke | rBkgdColor | rFrgdColor | rWrtMask | rRdMask | rColorCmp | rBkgdMix |
      rFrgdMix | rMultifunc | rPixTrans | rPixTransWindow | rNone =>
    exact absurd h issueRead_ne_fault
  case statusRead => exact absurd h execStatusRead_ne_fault
  case drainedRead => exact absurd h execDrainedRead_ne_fault
  case config => exact absurd h execConfig_ne_fault
  case wake | stop | empty => exact absurd h ite_next_ne_fault
  case waitIdle => exact absurd h execWaitIdle_ne_fault
  case reportUtilization => exact absurd h execReportUtilization_ne_fault
  case close => exact absurd h execClose_ne_fault
  all_goals exact absurd h next_ne_fault

/-- A new read cursor keeps the bounds when the queue was not empty. -/
theorem execDequeueExecute_ne_fault (hs : queueOk s) : execDequeueExecute s ≠ .fault f := by
  obtain ⟨-, hle, hcap, -⟩ := hs
  intro h
  rcases execDequeueExecute_cases (s := s) with ⟨hnext, -⟩ | ⟨-, hne, ⟨-, hbad⟩ | ⟨hnext, -⟩⟩
  · exact next_ne_fault (hnext.symm.trans h)
  · omega
  · exact next_ne_fault (hnext.symm.trans h)

/-- A new write cursor keeps the bounds when the queue was not full. -/
theorem enqueueFirst_ne_fault (hs : queueOk s) {pending : List EntryWord} : s.enqueueFirst pending ≠ .fault f := by
  obtain ⟨-, hle, hcap, -⟩ := hs
  intro h
  rcases s.enqueueFirst_cases pending with ⟨-, hnext⟩ | ⟨e, rest, -, ⟨-, hnext⟩ | ⟨hne, hbad, -⟩ | ⟨-, -, -, hnext⟩⟩
  · exact next_ne_fault (hnext.symm.trans h)
  · exact next_ne_fault (hnext.symm.trans h)
  · omega
  · exact next_ne_fault (hnext.symm.trans h)

theorem exec_ne_fault (hs : queueOk s) (i : Instr) : exec i s ≠ .fault f := by
  intro h
  rcases exec_fault h with hd | ⟨pending, he⟩
  · exact execDequeueExecute_ne_fault hs hd
  · exact enqueueFirst_ne_fault hs he

/-- An agent's own step runs on the state as it is. -/
theorem ownAction_run {t : State} {i : Instr} (h : s.ownAction = .run i t) : t = s := by
  unfold State.ownAction at h
  cases hstep : s.ownStep with
  | some j => rw [hstep] at h; cases h; rfl
  | none => rw [hstep] at h; cases h

/-- A step's instruction runs on the state with at most an input taken. -/
theorem nextAction_run {t : State} {i : Instr} (h : s.nextAction = .run i t) : inputFrame s t := by
  have own (h : s.ownAction = .run i t) : inputFrame s t := by rw [ownAction_run h]; rfl
  cases hin : s.inputs with
  | nil => exact own (by rwa [nextAction_of_agentsTurn (.inl hin)] at h)
  | cons inp rest =>
    rw [nextAction_of_cons hin] at h
    cases inp with
    | hostWrite | hostRead | clearDirty => cases h
    | word sp w =>
      unfold State.inputAction at h
      dsimp only at h
      split at h
      · split_ifs at h
        · exact own h
        · cases h; rfl
      · cases h
      · cases h

/-- What no instruction does where the queue invariant holds, no step does. -/
theorem step_safe (hs : blockInv s) : safeStep s := by
  intro f h
  unfold step at h
  cases hact : s.nextAction with
  | run i t =>
    rw [hact] at h
    exact exec_ne_fault (hs.of_inputFrame (nextAction_run hact)).queue i h
  | goto | refuse =>
    rw [hact] at h
    cases h

/-- A write cursor below the read cursor makes DEQUEUE-EXECUTE fault (log 4). -/
theorem execDequeueExecute_behind (hc : s.cstate = .draining) (hlt : s.queue.wr < s.queue.rd) :
    execDequeueExecute s = .fault (.queueInvariant s.queue.rd s.queue.wr) := by
  rcases execDequeueExecute_cases (s := s) with ⟨-, hidle⟩ | ⟨-, -, ⟨hfault, -⟩ | ⟨-, hlt', -⟩⟩
  · exact absurd ⟨hc, Nat.ne_of_lt hlt⟩ hidle
  · exact hfault
  · omega

/-- More than `QCAP` entries make ENQUEUE fault (log 26). -/
theorem enqueueFirst_over {e : EntryWord} {rest : List EntryWord} (h : s.params.qcap < s.queue.wr - s.queue.rd) :
    s.enqueueFirst (e :: rest) = .fault (.queueInvariant s.queue.rd s.queue.wr) := by
  rcases s.enqueueFirst_cases (e :: rest) with ⟨hnil, -⟩ | ⟨e', rest', -, ⟨hfull, -⟩ | ⟨-, -, hfault⟩ | ⟨-, -, hle, -⟩⟩
  · cases hnil
  · omega
  · exact hfault
  · omega

end Fault

/-- Settles O12: the queue invariant keeps both cursors inside their bounds; outside them the two faults. -/
theorem invariantExcludesTheModelFault : Obligations.InvariantExcludesTheModelFault := by
  refine ⟨fun s hs => ⟨step_safe hs.blockInv, fun i f => exec_ne_fault hs.blockInv.queue i⟩,
    fun s hc hlt => execDequeueExecute_behind hc hlt, fun s e rest hw hover => ?_⟩
  refine (execEnqueue_waitRoom hw).trans ?_
  rw [not_full_of_ne (Nat.ne_of_gt hover)]
  exact enqueueFirst_over hover

end Sys2Proof.Machine

/-! # The Consumer's steps, entries and the Producer's accesses

When each step of the Consumer is enabled and what it answers; an entry as its byte writes; what an access does
while the Producer is Ready, and what the model refuses. -/

namespace Sys2Proof.Machine

open Sys2Proof

/-! ## The Consumer's steps -/

section Consumer

variable {s : State}

/-- After STOP the Consumer has no step (41 R184): each of the four needs Idle or Draining. -/
theorem consumerStep_stopped (hc : s.cstate = .stopped) : s.consumerStep = none := by
  rcases s.consumerStep_cases with ⟨-, hd, -⟩ | ⟨-, hd, -⟩ | ⟨-, hi, -⟩ | ⟨-, hi, -⟩ | ⟨hnone, -⟩
  · exact absurd (hc.symm.trans hd) (by decide)
  · exact absurd (hc.symm.trans hd) (by decide)
  · exact absurd (hc.symm.trans hi) (by decide)
  · exact absurd (hc.symm.trans hi) (by decide)
  · exact hnone

/-- While Draining the Consumer has a step, and which one only the cursors decide (41 R185). -/
theorem consumerStep_draining (hc : s.cstate = .draining) :
    s.consumerStep = some (if s.queue.wr = s.queue.rd then .empty else .dequeueExecute) := by
  rcases s.consumerStep_cases with ⟨hstep, -, hne⟩ | ⟨hstep, -, heq⟩ | ⟨-, hi, -⟩ | ⟨-, hi, -⟩ | ⟨-, hn⟩
  · rw [hstep, if_neg hne]
  · rw [hstep, if_pos heq]
  · exact absurd (hc.symm.trans hi) (by decide)
  · exact absurd (hc.symm.trans hi) (by decide)
  · exact absurd hc hn

/-- An enabled WAKE has its condition (41 R180). -/
theorem wakeEnabled_of_consumerStep (h : s.consumerStep = some .wake) :
    s.cstate = .idle ∧ s.wakePending = true ∧ s.stop = false := by
  rcases s.consumerStep_cases with ⟨hstep, -⟩ | ⟨hstep, -⟩ | ⟨-, hwake⟩ | ⟨hstep, -⟩ | ⟨hstep, -⟩
  · cases hstep.symm.trans h
  · cases hstep.symm.trans h
  · exact hwake
  · cases hstep.symm.trans h
  · cases hstep.symm.trans h

/-- With its cursors in order a queue is empty iff they are equal (10 R32). -/
theorem occupancy_eq_zero_iff (hs : queueOk s) : s.occupancy = 0 ↔ s.queue.wr = s.queue.rd := by
  obtain ⟨-, hle, -, -⟩ := hs
  unfold State.occupancy
  omega

end Consumer

/-- Settles O17: WAKE where its condition holds. -/
theorem wakeStartsDraining : Obligations.WakeStartsDraining :=
  fun s hc hw hs => if_pos (s.wakeEnabled_iff.2 ⟨hc, hw, hs⟩)

/-- Settles O18: EMPTY where its condition holds. -/
theorem emptyReturnsToIdle : Obligations.EmptyReturnsToIdle :=
  fun s hc hq => if_pos (s.emptyEnabled_iff.2 ⟨hc, hq⟩)

/-- Settles O19: STOP where its condition holds, and no step after it. -/
theorem stopEndsTheConsumer : Obligations.StopEndsTheConsumer :=
  ⟨fun s hc hw hs => if_pos (s.stopEnabled_iff.2 ⟨hc, hw, hs⟩), fun _ hc => consumerStep_stopped hc⟩

/-- Settles O20: in Draining the cursors pick the one step, so a Consumer with no step is not Draining. -/
theorem drainingHasOneEnabledStep : Obligations.DrainingHasOneEnabledStep := by
  intro s hs
  refine ⟨fun hc hn => ?notEmpty, fun hc hn => ?empty, wakeEnabled_of_consumerStep, fun hnone hc => ?suspended⟩
  case notEmpty =>
    rw [consumerStep_draining hc, if_neg fun heq => Nat.ne_of_gt hn ((occupancy_eq_zero_iff hs).2 heq)]
  case empty => rw [consumerStep_draining hc, if_pos ((occupancy_eq_zero_iff hs).1 hn)]
  case suspended => cases hnone.symm.trans (consumerStep_draining hc)

/-! ## Entries -/

/-- The rows of the byte writes an entry consists of are its addressed bytes (41 R182). -/
theorem map_byteWriteInstr_bytes (sp : BusSpace) (w : Width) (off : BitVec 24) (p : Word) (d : ByteAddr) :
    (List.range (w.lanes.map (byteAddrAt sp off)).length).map (fun k =>
        byteWriteInstr ((w.lanes.map (byteAddrAt sp off)).getD k d) (p.extractLsb' (8 * k) 8)) =
      (bytesOf sp w off p).map fun c => byteWriteInstr c.1 c.2 := by
  unfold bytesOf
  rw [List.map_map, List.length_map, lanes_len, List.length_range]
  refine List.map_congr_left fun k hk => ?_
  have hget : ((List.range w.bytes).map (byteAddrAt sp off)).getD k d = byteAddrAt sp off k := by
    simp [List.getD_eq_getElem?_getD, List.mem_range.1 hk]
  rw [hget]
  rfl

/-- The six entry rows that write: the bytes each addresses, and that it is their EXECUTE. -/
theorem entryRow_spec {s : State} {off : BitVec 24} {p : Word} {i : Instr} {addrs : List ByteAddr}
    (h : (i, addrs) ∈ [(Instr.entryWriteByte off p, [ByteAddr.mapped off.toNat]),
      (.entryWriteWord off p, [.mapped off.toNat, .mapped (off.toNat + 1)]),
      (.entryWriteDword off p, [.mapped off.toNat, .mapped (off.toNat + 1), .mapped (off.toNat + 2),
        .mapped (off.toNat + 3)]),
      (.entryOutByte off p, [.port (off.setWidth 16)]),
      (.entryOutWord off p, [.port (off.setWidth 16), .port (off.setWidth 16 + 1#16)]),
      (.entryOutDword off p, [.port (off.setWidth 16), .port (off.setWidth 16 + 1#16),
        .port (off.setWidth 16 + 2#16), .port (off.setWidth 16 + 3#16)])]) :
    ∃ sp w, exec i s = .next (s.executeEntry sp w off p) ∧ addrs = w.lanes.map (byteAddrAt sp off) := by
  have hport : byteAddrAt .port off 0 = .port (off.setWidth 16) := by simp [byteAddrAt]
  simp only [List.mem_cons, List.not_mem_nil, or_false, Prod.mk.injEq] at h
  rcases h with ⟨rfl, rfl⟩ | ⟨rfl, rfl⟩ | ⟨rfl, rfl⟩ | ⟨rfl, rfl⟩ | ⟨rfl, rfl⟩ | ⟨rfl, rfl⟩
  · exact ⟨.mapped, .w1, rfl, rfl⟩
  · exact ⟨.mapped, .w2, rfl, rfl⟩
  · exact ⟨.mapped, .w4, rfl, rfl⟩
  · exact ⟨.port, .w1, rfl, by rw [← hport]; rfl⟩
  · exact ⟨.port, .w2, rfl, by rw [← hport]; rfl⟩
  · exact ⟨.port, .w4, rfl, by rw [← hport]; rfl⟩

/-- Settles O44: EXECUTE writes the entry's bytes in order, and so do the rows of its byte writes. -/
theorem entriesExecuteTheirBytesInOrder : Obligations.EntriesExecuteTheirBytesInOrder := by
  intro s off p
  refine ⟨rfl, fun i addrs hrow => ?_⟩
  obtain ⟨sp, w, hexec, rfl⟩ := entryRow_spec (s := s) hrow
  refine ⟨_, hexec, ?_⟩
  rw [map_byteWriteInstr_bytes]
  exact execAll_bytes s (bytesOf sp w off p)

/-! ## Where an access starts -/

/-- The offset field of an access at a mapped offset or a port (30 R100). -/
def accessField (sp : BusSpace) (o : BitVec 24) (p : BitVec 16) : BitVec 24 :=
  match sp with
  | .mapped => o
  | .port => p.setWidth 24

theorem setWidth_port_field (p : BitVec 16) : (p.setWidth 24).setWidth 16 = p := by
  rw [BitVec.setWidth_setWidth_of_le _ (by decide), BitVec.setWidth_eq]

/-- In the mapped space byte `i` of an access is at `o + i` (30 R114). -/
theorem byteAddrAt_accessField_mapped (o : BitVec 24) (p : BitVec 16) :
    byteAddrAt .mapped (accessField .mapped o p) = fun k => .mapped (o.toNat + k) := rfl

/-- In the port space it is at the port `p + i` (30 R114). -/
theorem byteAddrAt_accessField_port (o : BitVec 24) (p : BitVec 16) :
    byteAddrAt .port (accessField .port o p) = fun k => .port (p + BitVec.ofNat 16 k) := by
  funext k
  exact congrArg (fun q => ByteAddr.port (q + BitVec.ofNat 16 k)) (setWidth_port_field p)

theorem offsetAt_accessField_port (o : BitVec 24) (p : BitVec 16) :
    offsetAt .port (accessField .port o p) = fun k => (p + BitVec.ofNat 16 k).setWidth 24 := by
  funext k
  exact congrArg (fun q => (q + BitVec.ofNat 16 k).setWidth 24) (setWidth_port_field p)

/-- The first byte's offset field is that of the access (41 R171). -/
theorem offsetAt_accessField_zero (sp : BusSpace) (o : BitVec 24) (p : BitVec 16) :
    offsetAt sp (accessField sp o p) 0 = accessField sp o p := by
  cases sp with
  | mapped => exact BitVec.add_zero o
  | port => rw [offsetAt_accessField_port]; exact congrArg (BitVec.setWidth 24) (BitVec.add_zero p)

/-! ## Write accesses -/

section Writes

variable {s : State} {sp : BusSpace} {w : Width} {off : BitVec 24} {v : Word}

/-- A write that starts at a pixel-transfer byte is one byte entry per byte (41 R171). -/
theorem makeEntries_pixel (h : ∃ lane, decodeAddr (byteAddrAt sp off 0) = .pixel lane) :
    makeEntries sp w off v = (List.range w.bytes).map fun k =>
      packEntry (kindCode sp .w1) (offsetAt sp off k) ((v.extractLsb' (8 * k) 8).setWidth 32) := by
  unfold makeEntries
  rw [if_pos ((startsPixel_iff sp off).2 h), lanes_len]
  rfl

/-- Any other write is one entry of its width (41 R171). -/
theorem makeEntries_single (h : ¬ ∃ lane, decodeAddr (byteAddrAt sp off 0) = .pixel lane) :
    makeEntries sp w off v = [packEntry (kindCode sp w) off (BitVec.ofNat 32 (v.toNat % 2 ^ (8 * w.bytes)))] := by
  unfold makeEntries
  rw [if_neg fun hp => h ((startsPixel_iff sp off).1 hp), truncValue_eq]

/-- From Ready before close an operation of the Producer goes on (41 R170). -/
theorem ifReady_ready (hp : s.pstate = .ready) (hc : s.cstate ≠ .stopped) (r : Result) : s.ifReady r = r := by
  unfold State.ifReady
  rw [if_neg hc, if_pos hp]

theorem issueWrite_ready (hp : s.pstate = .ready) (hc : s.cstate ≠ .stopped) :
    s.issueWrite sp w off v = s.enqueueFirst (makeEntries sp w off v) := ifReady_ready hp hc _

/-- The six write rows: ISSUE-WRITE of their space, width and offset. -/
theorem writeRow_spec {o : BitVec 24} {p : BitVec 16} {i : Instr} {code : BitVec 8} {n : Nat}
    (h : (i, sp, code, n) ∈ [(Instr.write8 o v, BusSpace.mapped, 0x01#8, 1),
      (.write16 o v, .mapped, 0x02#8, 2), (.write32 o v, .mapped, 0x03#8, 4),
      (.out8 p v, .port, 0x09#8, 1), (.out16 p v, .port, 0x0A#8, 2), (.out32 p v, .port, 0x0B#8, 4)]) :
    ∃ w : Width, exec i s = s.issueWrite sp w (accessField sp o p) v ∧ code = kindCode sp w ∧ n = w.bytes := by
  simp only [List.mem_cons, List.not_mem_nil, or_false, Prod.mk.injEq] at h
  rcases h with ⟨rfl, rfl, rfl, rfl⟩ | ⟨rfl, rfl, rfl, rfl⟩ | ⟨rfl, rfl, rfl, rfl⟩ | ⟨rfl, rfl, rfl, rfl⟩ |
    ⟨rfl, rfl, rfl, rfl⟩ | ⟨rfl, rfl, rfl, rfl⟩
  · exact ⟨.w1, rfl, rfl, rfl⟩
  · exact ⟨.w2, rfl, rfl, rfl⟩
  · exact ⟨.w4, rfl, rfl, rfl⟩
  · exact ⟨.w1, rfl, rfl, rfl⟩
  · exact ⟨.w2, rfl, rfl, rfl⟩
  · exact ⟨.w4, rfl, rfl, rfl⟩

/-- The first address, the offset fields and the byte code of a write are those of its space. -/
theorem writeFields_spec {o : BitVec 24} {p : BitVec 16} {first : ByteAddr} {field : Nat → BitVec 24}
    {byteCode : BitVec 8}
    (h : sp = .mapped ∧ first = .mapped o.toNat ∧ field = (fun k => o + BitVec.ofNat 24 k) ∧ byteCode = 0x01#8 ∨
      sp = .port ∧ first = .port p ∧ field = (fun k => (p + BitVec.ofNat 16 k).setWidth 24) ∧ byteCode = 0x09#8) :
    first = byteAddrAt sp (accessField sp o p) 0 ∧ field = offsetAt sp (accessField sp o p) ∧
      byteCode = kindCode sp .w1 := by
  rcases h with ⟨rfl, rfl, rfl, rfl⟩ | ⟨rfl, rfl, rfl, rfl⟩
  · exact ⟨rfl, rfl, rfl⟩
  · rw [byteAddrAt_accessField_port, offsetAt_accessField_port]
    exact ⟨congrArg ByteAddr.port (BitVec.add_zero p).symm, rfl, rfl⟩

end Writes

/-- Settles O22: the entries written out are those of MAKE-ENTRIES, and the first ENQUEUE finds room or not. -/
theorem writeAccessesEnqueueTheirEntries : Obligations.WriteAccessesEnqueueTheirEntries := by
  intro s o p v hv hs hp hc i sp code n hrow first field byteCode hspace entries hentries
  obtain ⟨w, hexec, rfl, rfl⟩ := writeRow_spec (s := s) hrow
  obtain ⟨rfl, rfl, rfl⟩ := writeFields_spec hspace
  have hmake : makeEntries sp w (accessField sp o p) v = entries := by
    rcases hentries with ⟨hpix, rfl⟩ | ⟨hpix, rfl⟩
    · exact makeEntries_pixel hpix
    · rw [offsetAt_accessField_zero]; exact makeEntries_single hpix
  rw [issueWrite_ready hp hc, hmake] at hexec
  cases entries with
  | nil => exact absurd hmake (makeEntries_len _ _ _ _).1
  | cons e rest =>
    refine ⟨e, rest, rfl, fun hroom => ?_, fun hfull => hexec.trans (enqueueFirst_full hfull)⟩
    rw [hexec, ← enqueued_eq hv]
    exact enqueueFirst_room hs hroom

/-! ## Read accesses -/

section Reads

variable {s : State} {a : Access}

/-- A read is drained iff one of its bytes is a byte of a register other than CMD (30 R115). -/
theorem not_sync_iff (a : Access) : a.isSynchronous = false ↔
    ∃ k < a.width.bytes, ∃ r lane, decodeAddr (byteAddrAt a.space a.addr k) = .reg r lane ∧ r ≠ .cmd := by
  rw [← Bool.not_eq_true, sync_iff]
  push Not
  rfl

theorem issueRead_sync (hp : s.pstate = .ready) (hc : s.cstate ≠ .stopped) (ha : a.isSynchronous = true) :
    s.issueRead a = .next (s.readStatus a) := by
  rw [issueRead_ready hp hc, if_pos ha]

theorem issueRead_drained (hp : s.pstate = .ready) (hc : s.cstate ≠ .stopped) (ha : a.isSynchronous = false) :
    s.issueRead a = .next (s.readDrained a) := by
  rw [issueRead_ready hp hc, ha]
  rfl

/-- STATUS-READ of a synchronous read is its issue (45 R350). -/
theorem execStatusRead_sync (ha : a.isSynchronous = true) : execStatusRead a s = s.issueRead a := by
  unfold execStatusRead State.issueRead
  rw [if_pos ha, if_pos ha]

theorem execStatusRead_drained (ha : a.isSynchronous = false) : execStatusRead a s = .refused .cannotIssue := by
  unfold execStatusRead
  rw [ha]
  rfl

/-- DRAINED-READ of a drained read that does not wait yet is its issue (45 R352). -/
theorem execDrainedRead_drained (hp : s.pstate ≠ .waitDrain a) (ha : a.isSynchronous = false) :
    execDrainedRead a s = s.issueRead a := by
  unfold execDrainedRead State.issueRead
  rw [if_neg hp, ha]
  rfl

theorem execDrainedRead_sync (hp : s.pstate ≠ .waitDrain a) (ha : a.isSynchronous = true) :
    execDrainedRead a s = .refused .cannotIssue := by
  unfold execDrainedRead
  rw [if_neg hp, if_pos ha]

/-- A drained read issued on an empty queue returns at once (45 R352). -/
theorem readDrained_empty (h : s.occupancy = 0) : s.readDrained a = s.returnValue a := by
  unfold State.readDrained
  rw [if_neg (Nat.not_lt.2 h.le)]

/-- Issued on a queue that is not empty it wakes the Consumer and waits (45 R352). -/
theorem readDrained_waits (h : 0 < s.occupancy) :
    s.readDrained a = { s with wakePending := true, pstate := .waitDrain a } := by
  unfold State.readDrained
  rw [if_pos h]
  rfl

/-- The six read rows: ISSUE-READ of their access. -/
theorem readRow_spec {o : BitVec 24} {p : BitVec 16} {i : Instr} {n : Nat}
    (h : (i, a, n) ∈ [(Instr.read8 o, (⟨.mapped, o, .w1⟩ : Access), 1), (.read16 o, ⟨.mapped, o, .w2⟩, 2),
      (.read32 o, ⟨.mapped, o, .w4⟩, 4), (.in8 p, ⟨.port, p.setWidth 24, .w1⟩, 1),
      (.in16 p, ⟨.port, p.setWidth 24, .w2⟩, 2), (.in32 p, ⟨.port, p.setWidth 24, .w4⟩, 4)]) :
    exec i s = s.issueRead a ∧ a.addr = accessField a.space o p ∧ n = a.width.bytes := by
  simp only [List.mem_cons, List.not_mem_nil, or_false, Prod.mk.injEq] at h
  rcases h with ⟨rfl, rfl, rfl⟩ | ⟨rfl, rfl, rfl⟩ | ⟨rfl, rfl, rfl⟩ | ⟨rfl, rfl, rfl⟩ | ⟨rfl, rfl, rfl⟩ |
    ⟨rfl, rfl, rfl⟩ <;> exact ⟨rfl, rfl, rfl⟩

/-- The byte addresses of a read are those of its space. -/
theorem readAddrs_spec {o : BitVec 24} {p : BitVec 16} {addr : Nat → ByteAddr}
    (ha : a.addr = accessField a.space o p)
    (h : a.space = .mapped ∧ addr = (fun k => .mapped (o.toNat + k)) ∨
      a.space = .port ∧ addr = (fun k => .port (p + BitVec.ofNat 16 k))) :
    addr = byteAddrAt a.space a.addr := by
  rw [ha]
  rcases h with ⟨hsp, rfl⟩ | ⟨hsp, rfl⟩
  · rw [hsp, byteAddrAt_accessField_mapped]
  · rw [hsp, byteAddrAt_accessField_port]

end Reads

/-- Settles O23: a synchronous read is a STATUS-READ, and any other a DRAINED-READ of the same value. -/
theorem readAccessesReturnOrWait : Obligations.ReadAccessesReturnOrWait := by
  intro s o p hp hc i a n hrow addr haddr
  obtain ⟨hexec, hfield, rfl⟩ := readRow_spec (s := s) hrow
  obtain rfl := readAddrs_spec hfield haddr
  obtain ⟨hbytes, hlt⟩ := readValue_spec s a
  refine ⟨s.readValue a, hbytes, hlt, fun hsync => ?synchronous, fun hdrained => ?drained⟩
  case synchronous =>
    have ha := (sync_iff a).2 hsync
    refine ⟨?_, (execStatusRead_sync ha).trans hexec.symm⟩
    rw [hexec, issueRead_sync hp hc ha, readStatus_ready hp]
  case drained =>
    have ha := (not_sync_iff a).2 hdrained
    have hnot : s.pstate ≠ .waitDrain a := fun h => by cases hp.symm.trans h
    rw [hexec, issueRead_drained hp hc ha]
    refine ⟨fun hn => ?_, fun hn => ?_, ?_⟩
    · rw [readDrained_empty hn, returnValue_ready hp]
    · rw [readDrained_waits hn]
    · exact (execDrainedRead_drained hnot ha).trans (issueRead_drained hp hc ha)

/-! ## Refusals -/

section Refusals

variable {s : State}

/-- After close nothing is taken (41 R186). -/
theorem ifReady_closed (hc : s.cstate = .stopped) (r : Result) : s.ifReady r = .refused .closed := if_pos hc

/-- While an access waits no other is taken (41 R170). -/
theorem ifReady_waiting (hc : s.cstate ≠ .stopped) (hp : s.pstate ≠ .ready) (r : Result) :
    s.ifReady r = .refused .cannotIssue := by
  unfold State.ifReady
  rw [if_neg hc, if_neg hp]

/-- An access asks for Ready first, or it is a read step, which looks at the read's kind before. -/
theorem exec_access {i : Instr} (hi : isAccess i = true) :
    (∃ r, exec i s = s.ifReady r) ∨ (∃ a, i = .statusRead a) ∨ ∃ a, i = .drainedRead a := by
  cases i
  case write8 | write16 | write32 | out8 | out16 | out32 | read8 | read16 | read32 | in8 | in16 | in32 | rCurY |
      rCurX | rDestyAxstp | rDestxDiastp | rErrTerm | rMajAxisPcnt | rGpStat | rShortStroke | rBkgdColor | rFrgdColor |
      rWrtMask | rRdMask | rColorCmp | rBkgdMix | rFrgdMix | rMultifunc | rPixTrans | rPixTransWindow | rNone =>
    exact .inl ⟨_, rfl⟩
  case statusRead a => exact .inr (.inl ⟨a, rfl⟩)
  case drainedRead a => exact .inr (.inr ⟨a, rfl⟩)
  all_goals cases hi

/-- While an access waits STATUS-READ is refused, whatever it reads. -/
theorem execStatusRead_waiting (hc : s.cstate ≠ .stopped) (hp : s.pstate ≠ .ready) (a : Access) :
    execStatusRead a s = .refused .cannotIssue := by
  cases ha : a.isSynchronous with
  | true => rw [execStatusRead_sync ha]; exact ifReady_waiting hc hp _
  | false => exact execStatusRead_drained ha

/-- While an access waits DRAINED-READ is refused, unless it is that access. -/
theorem execDrainedRead_waiting (hc : s.cstate ≠ .stopped) (hp : s.pstate ≠ .ready) {a : Access}
    (hw : s.pstate ≠ .waitDrain a) : execDrainedRead a s = .refused .cannotIssue := by
  cases ha : a.isSynchronous with
  | true => exact execDrainedRead_sync hw ha
  | false => rw [execDrainedRead_drained hw ha]; exact ifReady_waiting hc hp _

variable {pb pitch vb : Nat}

theorem State.configEnabled_iff (s : State) : s.configEnabled = true ↔ s.occupancy = 0 ∧ s.cstate ≠ .draining := by
  simp [State.configEnabled]

/-- CONFIG while the block works (70 R414). -/
theorem execConfig_busy (h : s.hstate = .ready ∨ s.hstate = .waitIdle)
    (hb : 0 < s.occupancy ∨ s.cstate = .draining) : execConfig pb pitch vb s = .refused .configWhileBusy := by
  have hen : s.configEnabled = false := by
    rw [← Bool.not_eq_true, s.configEnabled_iff]
    rintro ⟨hn, hd⟩
    exact hb.elim (fun h => Nat.ne_of_gt h hn) hd
  unfold execConfig
  rcases h with h | h
  · rw [h, hen]; rfl
  · rw [h, hen]; rfl

/-- CONFIG with values outside the ranges (00 R9). -/
theorem execConfig_bad (h : s.hstate = .ready ∨ s.hstate = .waitIdle) (hen : s.configEnabled = true)
    (hbad : configOk pb pitch vb = false) : execConfig pb pitch vb s = .refused .badConfiguration := by
  unfold execConfig
  rcases h with h | h
  · rw [h, hen, hbad]; rfl
  · rw [h, hen, hbad]; rfl

end Refusals

/-- Settles O29: an access asks for Ready, a read step for its kind of read, and CONFIG for its condition first. -/
theorem operationsThatCannotBeIssuedAreRefused : Obligations.OperationsThatCannotBeIssuedAreRefused := by
  refine ⟨fun s i hi hc hstatus hdrained => ?closed, fun s i hi hc hp hw => ?waiting,
    fun s a ha => execStatusRead_drained ha, fun s a ha hp => execDrainedRead_sync hp ha,
    fun s pb pitch vram hh hb => execConfig_busy hh hb, fun s pb pitch vram hh hn hd hbad => ?config⟩
  case closed =>
    rcases exec_access (s := s) hi with ⟨r, hexec⟩ | ⟨a, ha⟩ | ⟨a, ha⟩
    · exact hexec.trans (ifReady_closed hc r)
    · exact absurd ha (hstatus a)
    · exact absurd ha (hdrained a)
  case waiting =>
    rcases exec_access (s := s) hi with ⟨r, hexec⟩ | ⟨a, rfl⟩ | ⟨a, rfl⟩
    · exact hexec.trans (ifReady_waiting hc hp r)
    · exact execStatusRead_waiting hc hp a
    · exact execDrainedRead_waiting hc hp fun h => hw a h rfl
  case config =>
    refine execConfig_bad hh (s.configEnabled_iff.2 ⟨hn, hd⟩) ?_
    rw [← Bool.not_eq_true, configOk_iff]
    exact hbad

end Sys2Proof.Machine

/-! # The register file

Byte writes of the registers (42 R200 to R218), the two latches and the multifunction commit (42 R210, R220,
R222), register reads on an empty queue (42 R240 to R242), and pixel-transfer bytes with the delivery of a
complete unit (42 R230, R231; 44 R294). -/

namespace Sys2Proof.Machine

open Sys2Proof

/-! ## Byte writes of registers -/

section RegisterWrites

variable {lane : BitVec 2}

/-- A write of a register with lanes 0 and 1 only, in such a lane (30 R111). -/
theorem next_usedLane (h : lane.toNat < 2) (s t : State) :
    (.next (if unusedLane lane then s else t) : Result) = .next t :=
  congrArg _ (if_neg fun hu => Nat.not_le.2 h (of_decide_eq_true hu))

/-- The same write in lanes 2 and 3 leaves the state (42 R200). -/
theorem next_unusedLane (h : 2 ≤ lane.toNat) (s t : State) :
    (.next (if unusedLane lane then s else t) : Result) = .next s :=
  congrArg _ (if_pos (decide_eq_true h))

/-- The bits of a byte merged into a 12-bit coordinate (42 R203, R204). -/
theorem zext12_merge_bit (v : Half) (lane : BitVec 2) (b : Byte) {k : Nat} (hk : k < 16) :
    (zext12 (mergeByte v lane b)).getLsbD k =
      (decide (k < 12) && if k / 8 = lane.toNat then b.getLsbD (k % 8) else v.getLsbD k) := by
  rw [zext12_bit, merge_bit v lane b k hk]

/-- The bits of a byte merged into a register of 12 storage bits (42 R203, R209). -/
theorem slot12_merge_bit (v : Slot12) (lane : BitVec 2) (b : Byte) {k : Nat} (hk : k < 12) :
    ((mergeByte (v.setWidth 16) lane b).setWidth 12).getLsbD k =
      if k / 8 = lane.toNat then b.getLsbD (k % 8) else v.getLsbD k := by
  have hk16 : k < 16 := by omega
  rw [BitVec.getLsbD_setWidth, merge_bit _ lane b k hk16, BitVec.getLsbD_setWidth]
  simp only [hk, hk16, decide_true, Bool.true_and]

/-- The bits of a byte merged into a sign-extended register (42 R203, R206). -/
theorem sext14_merge_bit (v : Half) (lane : BitVec 2) (b : Byte) {k : Nat} (hk : k < 16) :
    (sext14 (mergeByte v lane b)).getLsbD k =
      if min k 13 / 8 = lane.toNat then b.getLsbD (min k 13 % 8) else v.getLsbD (min k 13) := by
  rw [sext14_bit _ k hk, merge_bit v lane b _ (by omega)]

end RegisterWrites

/-- Settles O35: each write keeps the low 12 bits of the merged value. -/
theorem twelveBitRegisterWrites : Obligations.TwelveBitRegisterWrites := by
  intro s sp lane b hlane
  exact ⟨⟨_, next_usedLane hlane s _, fun _ => zext12_merge_bit s.regs.curY lane b⟩,
    ⟨_, next_usedLane hlane s _, fun _ => zext12_merge_bit s.regs.curX lane b⟩,
    ⟨_, next_usedLane hlane s _, fun _ => slot12_merge_bit s.regs.majAxisPcnt lane b⟩⟩

/-- Settles O36: each write sign-extends the low 14 bits of the merged value. -/
theorem fourteenBitRegisterWrites : Obligations.FourteenBitRegisterWrites := by
  intro s sp lane b hlane
  exact ⟨⟨_, next_usedLane hlane s _, fun _ => sext14_merge_bit s.regs.destyAxstp lane b⟩,
    ⟨_, next_usedLane hlane s _, fun _ => sext14_merge_bit s.regs.destxDiastp lane b⟩,
    ⟨_, next_usedLane hlane s _, fun _ => sext14_merge_bit s.regs.errTerm lane b⟩⟩

/-- Settles O37: each write stores the merged value itself, the 32-bit registers in every lane. -/
theorem mergedRegisterWrites : Obligations.MergedRegisterWrites := by
  intro s sp lane b
  refine ⟨fun hlane => ?halves, ?words⟩
  case halves =>
    exact ⟨⟨_, next_usedLane hlane s _, merge_bit s.regs.shortStroke lane b⟩,
      ⟨_, next_usedLane hlane s _, merge_bit s.regs.bkgdMix lane b⟩,
      ⟨_, next_usedLane hlane s _, merge_bit s.regs.frgdMix lane b⟩⟩
  case words =>
    exact ⟨⟨_, rfl, merge_bit s.regs.bkgdColor lane b⟩, ⟨_, rfl, merge_bit s.regs.frgdColor lane b⟩,
      ⟨_, rfl, merge_bit s.regs.wrtMask lane b⟩, ⟨_, rfl, merge_bit s.regs.rdMask lane b⟩,
      ⟨_, rfl, merge_bit s.regs.colorCmp lane b⟩⟩

/-! ## The two latches -/

section Latches

variable (s : State) (v : Half) (b : Byte)

/-- A byte merged into lane 0 of a 16-bit word is its low byte (42 R203). -/
theorem mergeByte_low : mergeByte v 0#2 b = v.extractLsb' 8 8 ++ b := by
  apply BitVec.eq_of_getLsbD_eq
  intro k hk
  rw [merge_bit v 0#2 b k hk, BitVec.getLsbD_append]
  by_cases h : k < 8
  · have hlow : k / 8 = 0 := by omega
    have hmod : k % 8 = k := by omega
    simp [h, hlow, hmod]
  · have hhigh : k / 8 ≠ 0 := by omega
    have hadd : 8 + (k - 8) = k := by omega
    have hlt : k - 8 < 8 := by omega
    simp [h, hhigh, hadd, hlt]

/-- A byte merged into lane 1 is its high byte. -/
theorem mergeByte_high : mergeByte v 1#2 b = b ++ v.extractLsb' 0 8 := by
  apply BitVec.eq_of_getLsbD_eq
  intro k hk
  rw [merge_bit v 1#2 b k hk, BitVec.getLsbD_append]
  by_cases h : k < 8
  · have hlow : k / 8 ≠ 1 := by omega
    simp [h, hlow]
  · have hhigh : k / 8 = 1 := by omega
    have hmod : k % 8 = k - 8 := by omega
    simp [h, hhigh, hmod]

theorem writeCmd_low :
    s.writeCmd 0#2 b = s.withRegs { s.regs with cmd := s.regs.cmd.extractLsb' 8 8 ++ b } := by
  rw [← mergeByte_low]
  rfl

theorem writeCmd_high : s.writeCmd 1#2 b = s.commitCmd (b ++ s.regs.cmd.extractLsb' 0 8) := by
  rw [← mergeByte_high]
  rfl

/-- Lanes 2 and 3 of CMD are unused (42 R210). -/
theorem writeCmd_unused {lane : BitVec 2} (h : 2 ≤ lane.toNat) : s.writeCmd lane b = s := by
  unfold State.writeCmd
  split
  case h_1 h0 => omega
  case h_2 h1 => omega
  case h_3 => rfl

theorem writeMultifunc_low {lane : BitVec 2} (h : lane ∈ [0#2, 2#2]) :
    s.writeMultifunc lane b = s.withRegs { s.regs with mfLatch := s.regs.mfLatch.extractLsb' 8 8 ++ b } := by
  rw [← mergeByte_low]
  simp only [List.mem_cons, List.not_mem_nil, or_false] at h
  rcases h with rfl | rfl <;> rfl

theorem writeMultifunc_high {lane : BitVec 2} (h : lane ∈ [1#2, 3#2]) :
    s.writeMultifunc lane b = s.commitMf (b ++ s.regs.mfLatch.extractLsb' 0 8) := by
  rw [← mergeByte_high]
  simp only [List.mem_cons, List.not_mem_nil, or_false] at h
  rcases h with rfl | rfl <;> rfl

/-- The row of a command word commits that word (42 R210). -/
theorem exec_decodeCmd : exec (decodeCmd v) s = .next (s.commitCmd v) := by
  obtain ⟨c, lo, rfl⟩ : ∃ (c : BitVec 3) (lo : BitVec 13), v = cmdWord c lo :=
    ⟨_, _, (join_two (m := 3) (n := 13) v).symm⟩
  rw [decode_cmd_word]
  cases c using code_cases with
  | code k hk => interval_cases k <;> rfl

/-- The row of a multifunction word commits that word (42 R220, R222). -/
theorem exec_decodeMultifunc : exec (decodeMultifunc v) s = .next (s.commitMf v) := by
  obtain ⟨c, data, rfl⟩ : ∃ (c : BitVec 4) (data : Slot12), v = c ++ data :=
    ⟨_, _, (join_two (m := 4) (n := 12) v).symm⟩
  rw [decode_multifunc_word]
  cases c using code_cases with
  | code k hk => interval_cases k <;> rfl

end Latches

/-- Settles O38: no lane 2 or 3 of a 16-bit register takes a byte, and neither does NONE. -/
theorem unusedLanesAndNoneIgnoreWrites : Obligations.UnusedLanesAndNoneIgnoreWrites := by
  intro s sp lane b
  refine ⟨fun hlane => ?unused, fun a ha => ?none⟩
  case unused =>
    have hkept := next_unusedLane hlane s
    simp only [List.forall_mem_cons]
    exact ⟨hkept _, hkept _, hkept _, hkept _, hkept _, hkept _, congrArg _ (writeCmd_unused s b hlane),
      hkept _, hkept _, hkept _, List.forall_mem_nil _⟩
  case none =>
    show Host.Outcome.next (s.byteWrite (decodeAddr a) b) = _
    rw [ha]
    rfl

/-- Settles O39: the low byte is latched, and the high byte runs the row the whole word decodes to. -/
theorem latchedWordsCommitOnTheHighByte : Obligations.LatchedWordsCommitOnTheHighByte := by
  intro s sp b
  refine ⟨congrArg _ (writeCmd_low s b), ?command, fun lane hlane => congrArg _ (writeMultifunc_low s b hlane),
    fun lane hlane => ?multifunction⟩
  case command =>
    have hrow := exec_decodeCmd s (b ++ s.regs.cmd.extractLsb' 0 8)
    exact ⟨_, _, decode_cmd _, (congrArg _ (writeCmd_high s b)).trans hrow.symm, hrow⟩
  case multifunction =>
    have hrow := exec_decodeMultifunc s (b ++ s.regs.mfLatch.extractLsb' 0 8)
    exact ⟨_, _, decode_multifunc _, (congrArg _ (writeMultifunc_high s b hlane)).trans hrow.symm, hrow⟩

/-! ## The multifunction commit -/

/-- COMMIT of a word by its fields (42 R222, 30 R130). -/
theorem commitMf_word (s : State) (index : BitVec 4) (data : Slot12) :
    s.commitMf (index ++ data) = { s with
      regs := { s.regs with mfLatch := index ++ data, mf := s.regs.mf.set index.toNat data index.isLt } } := by
  have hindex : (index ++ data : Half).extractLsb' 12 4 = index := high_of_two index data
  have hdata : (index ++ data : Half).extractLsb' 0 12 = data := low_of_two index data
  unfold State.commitMf
  rw [hindex, hdata]
  rfl

/-- Settles O40: each row commits the word of its index, which sets that slot of the bank. -/
theorem multifunctionCommitWritesOneSlot : Obligations.MultifunctionCommitWritesOneSlot := by
  intro s data i index hrow
  have hexec : exec i s = .next (s.commitMf (index ++ data)) := by
    simp only [List.mem_cons, List.not_mem_nil, or_false, Prod.mk.injEq] at hrow
    rcases hrow with ⟨rfl, rfl⟩ | ⟨rfl, rfl⟩ | ⟨rfl, rfl⟩ | ⟨rfl, rfl⟩ | ⟨rfl, rfl⟩ | ⟨rfl, rfl⟩ | ⟨rfl, rfl⟩ |
      ⟨rfl, rfl⟩ | ⟨rfl, rfl⟩ | ⟨rfl, rfl⟩ | ⟨rfl, rfl⟩ | ⟨rfl, rfl⟩ | ⟨rfl, rfl⟩ | ⟨rfl, rfl⟩ | ⟨rfl, rfl⟩ |
      ⟨rfl, rfl⟩ <;> rfl
  exact ⟨_, hexec.trans (congrArg _ (commitMf_word s index data)), Vector.getElem_set_self index.isLt,
    fun j hj => Vector.getElem_set_ne index.isLt j.isLt hj.symm⟩

/-! ## Register reads -/

section RegisterReads

variable {s : State}

/-- A byte of a 32-bit value as a number. -/
theorem setWidth_byteOf (w : Word) (n : Nat) :
    (byteOf w n).setWidth 32 = BitVec.ofNat 32 (w.toNat / 2 ^ (8 * n) % 256) := by
  apply BitVec.eq_of_toNat_eq
  rw [BitVec.toNat_setWidth, byteOf, BitVec.extractLsb'_toNat, BitVec.toNat_ofNat, Nat.shiftRight_eq_div_pow]

/-- The word read from the multifunction slot: the selected number above its value (42 R242). -/
theorem regBits_multifunc (s : State) :
    s.regBits .multifunc = BitVec.ofNat 32 (4096 * (s.regs.mf[15].toNat % 16) +
      (s.regs.mfAt (s.regs.mf[15].setWidth 4)).toNat) := by
  have hsel : s.regs.readSel = s.regs.mf[15].setWidth 4 := by
    apply BitVec.eq_of_toNat_eq
    simp [Regs.readSel]
  have hdata := (s.regs.mfAt s.regs.readSel).isLt
  apply BitVec.eq_of_toNat_eq
  show ((s.regs.readSel ++ s.regs.mfAt s.regs.readSel).setWidth 32).toNat = _
  rw [BitVec.toNat_setWidth, BitVec.toNat_append, BitVec.toNat_ofNat, ← Nat.shiftLeft_add_eq_or_of_lt hdata,
    Nat.shiftLeft_eq, Nat.mul_comm, hsel, BitVec.toNat_setWidth]

/-- The read row of a register reads its lane (42 R240; log 21). -/
theorem exec_rInstr (s : State) (r : RegName) (sp : BusSpace) (lane : BitVec 2) :
    exec (rInstr r sp lane) s = s.readLane r sp lane := by
  cases r <;> rfl

/-- A lane of a register other than CMD, read on an empty queue, returns at once (45 R352). -/
theorem readLane_empty (hp : s.pstate = .ready) (hc : s.cstate ≠ .stopped) (hq : s.occupancy = 0) {r : RegName}
    (hr : r ≠ .cmd) (sp : BusSpace) (lane : BitVec 2) :
    s.readLane r sp lane = .next { s with out := { s.out with
      busData := some ((byteOf (s.regBits r) lane.toNat).setWidth 32) } } := by
  obtain ⟨o, haccess, hdecode⟩ := decode_byteAccess r sp lane
  have hdrained : (⟨sp, o, .w1⟩ : Access).isSynchronous = false :=
    (not_sync_iff _).2 ⟨0, Nat.one_pos, r, lane, hdecode, hr⟩
  unfold State.readLane
  rw [haccess, issueRead_drained hp hc hdrained, readDrained_empty hq, returnValue_ready hp, readValue_w1, hdecode]
  rfl

end RegisterReads

/-- Settles O25: the row's lane of the register is read at once, and its byte is that of the stored value. -/
theorem registerReadsReturnTheirLane : Obligations.RegisterReadsReturnTheirLane := by
  intro s sp lane hp hc hq i bits hrow
  rw [← regBits_multifunc] at hrow
  have hreg : (i, bits) ∈ (RegName.all.filter (· ≠ .cmd)).map fun r => (rInstr r sp lane, s.regBits r) := hrow
  obtain ⟨r, hr, heq⟩ := List.mem_map.1 hreg
  cases heq
  have hcmd : r ≠ .cmd := of_decide_eq_true (List.mem_filter.1 hr).2
  rw [exec_rInstr, readLane_empty hp hc hq hcmd, setWidth_byteOf]

/-! ## Pixel-transfer bytes -/

section PixelBytes

variable {s : State} {b : Byte}

/-- Both pixel-transfer rows, whichever the address, write a pixel byte (42 R230). -/
theorem pixelRow_exec {sp : BusSpace} {lane : BitVec 2} {o : BitVec 15} {i : Instr}
    (hi : i ∈ [Instr.wPixTrans sp lane b, .wPixTransWindow o b]) : exec i s = .next (s.writePixel b) := by
  simp only [List.mem_cons, List.not_mem_nil, or_false] at hi
  rcases hi with rfl | rfl <;> rfl

/-- With no primitive waiting the byte is ignored (42 R231). -/
theorem writePixel_idle (ha : s.ex.active = false) :
    s.writePixel b = { s with regs := { s.regs with stageCnt := 0 } } := by
  unfold State.writePixel
  rw [ha]
  rfl

/-- The stage after a byte is put at its count (42 R230). -/
def State.stageWith (s : State) (b : Byte) : Vector Byte 4 := s.regs.stage.setIfInBounds s.regs.stageCnt b

/-- The state a complete unit is delivered from: the byte staged, the count back at 0 (42 R230). -/
def State.unitStaged (s : State) (b : Byte) : State :=
  s.withRegs { s.regs with stage := s.stageWith b, stageCnt := 0 }

/-- The items of the unit that a byte completes (44 R292, R293). -/
def State.unitItems (s : State) (b : Byte) : List Item :=
  feedItemsOf s.ex.feed s.params.pb (swapUnit s.ex.cmd ((s.stageWith b).toList.take s.ex.u))

theorem getElem_stageWith (s : State) (b : Byte) (j : Fin 4) :
    (s.stageWith b)[j] = if j.val = s.regs.stageCnt then b else s.regs.stage[j] :=
  (Vector.getElem_setIfInBounds j.isLt).trans (if_congr eq_comm rfl rfl)

/-- Short of a unit the byte is staged (42 R230). -/
theorem writePixel_staged (ha : s.ex.active = true) (hu : s.regs.stageCnt + 1 ≠ s.ex.u) :
    s.writePixel b = { s with regs := { s.regs with
      stage := s.stageWith b, stageCnt := s.regs.stageCnt + 1 } } := by
  unfold State.writePixel
  rw [if_pos ha, if_neg hu]
  rfl

/-- The byte that completes a unit empties the stage and delivers the unit's items (42 R230). -/
theorem writePixel_complete (ha : s.ex.active = true) (hu : s.regs.stageCnt + 1 = s.ex.u) :
    s.writePixel b = feedItems (s.unitItems b) (s.unitStaged b) := by
  unfold State.writePixel
  rw [if_pos ha, if_pos hu]
  rfl

end PixelBytes

/-- Settles O41: the two branches of a pixel byte that deliver no unit. -/
theorem pixelBytesAreStagedOrIgnored : Obligations.PixelBytesAreStagedOrIgnored := by
  intro s sp lane o b i hi
  rw [pixelRow_exec hi]
  exact ⟨fun ha => congrArg _ (writePixel_idle ha), fun ha hcnt _ =>
    ⟨s.stageWith b, congrArg _ (writePixel_staged ha (Nat.ne_of_lt hcnt)), getElem_stageWith s b⟩⟩

/-! ## Delivery of a unit -/

section Delivery

/-- The state after the first `k` items of a unit are stepped, whatever their events. -/
def itemRun (items : List Item) (s : State) : Nat → State
  | 0 => s
  | k + 1 => (engineStep (items.getD k .none) (itemRun items s k)).1

/-- The event of item `k`. -/
def itemEvent (items : List Item) (s : State) (k : Nat) : Event :=
  (engineStep (items.getD k .none) (itemRun items s k)).2

/-- How many items FEED-UNIT steps: up to the first that ends a row or the primitive (44 R294). -/
def itemCount : List Item → State → Nat
  | [], _ => 0
  | item :: rest, s => if (engineStep item s).2 = .cont then itemCount rest (engineStep item s).1 + 1 else 1

/-- The last item that FEED-UNIT steps ends the primitive. -/
def itemsEnd (items : List Item) (s : State) : Prop :=
  ∃ k, itemCount items s = k + 1 ∧ itemEvent items s k = .done

variable (item : Item) (rest items : List Item) (s : State)

theorem itemRun_cons (k : Nat) :
    itemRun (item :: rest) s (k + 1) = itemRun rest (engineStep item s).1 k := by
  induction k with
  | zero => rfl
  | succ k ih =>
    show (engineStep (rest.getD k .none) (itemRun (item :: rest) s (k + 1))).1 = _
    rw [ih]
    rfl

theorem itemEvent_cons (k : Nat) :
    itemEvent (item :: rest) s (k + 1) = itemEvent rest (engineStep item s).1 k := by
  unfold itemEvent
  rw [itemRun_cons]
  rfl

variable {item rest items s}

theorem itemCount_cont (h : (engineStep item s).2 = .cont) :
    itemCount (item :: rest) s = itemCount rest (engineStep item s).1 + 1 := if_pos h

theorem itemCount_stop (h : (engineStep item s).2 ≠ .cont) : itemCount (item :: rest) s = 1 := if_neg h

theorem itemCount_le (items : List Item) (s : State) : itemCount items s ≤ items.length := by
  induction items generalizing s with
  | nil => exact Nat.le_refl 0
  | cons item rest ih =>
    rw [List.length_cons]
    by_cases h : (engineStep item s).2 = .cont
    · rw [itemCount_cont h]; exact Nat.succ_le_succ (ih _)
    · rw [itemCount_stop h]; omega

/-- Every item stepped but the last goes on. -/
theorem itemEvent_before_last {k : Nat} (hk : k + 1 < itemCount items s) : itemEvent items s k = .cont := by
  induction items generalizing s k with
  | nil => exact absurd hk (Nat.not_lt_zero _)
  | cons item rest ih =>
    by_cases h : (engineStep item s).2 = .cont
    · rw [itemCount_cont h] at hk
      cases k with
      | zero => exact h
      | succ k => rw [itemEvent_cons]; exact ih (Nat.lt_of_succ_lt_succ hk)
    · rw [itemCount_stop h] at hk
      omega

/-- Items are left over only behind one that ends a row or the primitive. -/
theorem itemEvent_last (hlt : itemCount items s < items.length) :
    ∃ k, itemCount items s = k + 1 ∧ itemEvent items s k ≠ .cont := by
  induction items generalizing s with
  | nil => exact absurd hlt (Nat.not_lt_zero _)
  | cons item rest ih =>
    by_cases h : (engineStep item s).2 = .cont
    · rw [itemCount_cont h, List.length_cons] at hlt
      obtain ⟨k, hcount, hevent⟩ := ih (Nat.lt_of_succ_lt_succ hlt)
      exact ⟨k + 1, by rw [itemCount_cont h, hcount], by rwa [itemEvent_cons]⟩
    · exact ⟨0, itemCount_stop h, h⟩

theorem itemsEnd_cont (h : (engineStep item s).2 = .cont) :
    itemsEnd (item :: rest) s ↔ itemsEnd rest (engineStep item s).1 := by
  unfold itemsEnd
  rw [itemCount_cont h]
  constructor
  · rintro ⟨k, hcount, hdone⟩
    cases k with
    | zero => exact absurd (h.symm.trans hdone) (by decide)
    | succ k => exact ⟨k, Nat.succ.inj hcount, by rwa [itemEvent_cons] at hdone⟩
  · rintro ⟨k, hcount, hdone⟩
    exact ⟨k + 1, congrArg (· + 1) hcount, by rwa [itemEvent_cons]⟩

theorem itemsEnd_stop (h : (engineStep item s).2 ≠ .cont) :
    itemsEnd (item :: rest) s ↔ (engineStep item s).2 = .done := by
  unfold itemsEnd
  rw [itemCount_stop h]
  constructor
  · rintro ⟨k, hcount, hdone⟩
    obtain rfl : k = 0 := by omega
    exact hdone
  · exact fun hdone => ⟨0, rfl, hdone⟩

/-- FEED-UNIT steps its items, then FINISHes if the last one ended the primitive, else WRITEBACKs (44 R294). -/
theorem feedItems_cases (items : List Item) (s : State) :
    itemsEnd items s ∧ feedItems items s = (itemRun items s (itemCount items s)).finish ∨
      ¬ itemsEnd items s ∧ feedItems items s = (itemRun items s (itemCount items s)).writeback := by
  induction items generalizing s with
  | nil => exact .inr ⟨fun ⟨k, hcount, _⟩ => Nat.succ_ne_zero k hcount.symm, rfl⟩
  | cons item rest ih =>
    cases hevent : (engineStep item s).2 with
    | cont =>
      have hfeed : feedItems (item :: rest) s = feedItems rest (engineStep item s).1 := by
        rw [feedItems, ← Prod.eta (engineStep item s), hevent]
      rw [itemsEnd_cont hevent, itemCount_cont hevent, itemRun_cons, hfeed]
      exact ih _
    | rowEnd =>
      have hstop : (engineStep item s).2 ≠ .cont := by rw [hevent]; decide
      rw [itemsEnd_stop hstop, itemCount_stop hstop, hevent]
      refine .inr ⟨by decide, ?_⟩
      rw [feedItems, ← Prod.eta (engineStep item s), hevent]
      rfl
    | done =>
      have hstop : (engineStep item s).2 ≠ .cont := by rw [hevent]; decide
      rw [itemsEnd_stop hstop, itemCount_stop hstop, hevent]
      refine .inl ⟨rfl, ?_⟩
      rw [feedItems, ← Prod.eta (engineStep item s), hevent]
      rfl

/-- Stepping items never ends a primitive by itself (44 R290, R296). -/
theorem itemRun_active (items : List Item) (s : State) (k : Nat) : (itemRun items s k).ex.active = s.ex.active := by
  induction k with
  | zero => rfl
  | succ k ih => exact (advance_keeps (itemRun items s k).ex).2.1.trans ih

/-- What FEED-UNIT leaves: the registers written back, the picture and the execution state of the last item, and
the primitive active unless that item ended it (44 R294, R295, R296). -/
theorem feedItems_spec (items : List Item) {s : State} (ha : s.ex.active = true) :
    (feedItems items s).regs = writebackRegs (itemRun items s (itemCount items s)).ex
        (itemRun items s (itemCount items s)).regs ∧
      (feedItems items s).fb = (itemRun items s (itemCount items s)).fb ∧
      (feedItems items s).dirty = (itemRun items s (itemCount items s)).dirty ∧
      (feedItems items s).ex = { (itemRun items s (itemCount items s)).ex with
        active := (feedItems items s).ex.active } ∧
      ((feedItems items s).ex.active = false ↔ itemsEnd items s) := by
  rcases feedItems_cases items s with ⟨hend, hfeed⟩ | ⟨hend, hfeed⟩
  · rw [hfeed]
    exact ⟨rfl, rfl, rfl, rfl, ⟨fun _ => hend, fun _ => rfl⟩⟩
  · rw [hfeed]
    have hactive : (itemRun items s (itemCount items s)).writeback.ex.active = true :=
      (itemRun_active items s _).trans ha
    exact ⟨rfl, rfl, rfl, rfl, ⟨fun hf => absurd (hactive.symm.trans hf) (by decide), fun he => absurd he hend⟩⟩

end Delivery

/-- Settles O42: the unit's items are stepped from the state with the stage emptied, and end as `feedItems_cases`
says. -/
theorem completeUnitIsDelivered : Obligations.CompleteUnitIsDelivered := by
  intro s sp lane o b ha hu _ i hi
  have hexec : exec i s = .next (feedItems (s.unitItems b) (s.unitStaged b)) :=
    (pixelRow_exec hi).trans (congrArg _ (writePixel_complete ha hu))
  obtain ⟨hregs, hfb, hdirty, hex, hend⟩ := feedItems_spec (s.unitItems b) (s := s.unitStaged b) ha
  obtain ⟨hparams, hqueue, hwake, hstop, hcstate, -, hpstate, -⟩ :=
    (feedItems_run (s.unitItems b) (s.unitStaged b)).engineFrame
  exact ⟨s.stageWith b, itemRun (s.unitItems b) (s.unitStaged b), itemEvent (s.unitItems b) (s.unitStaged b),
    itemCount (s.unitItems b) (s.unitStaged b), _, getElem_stageWith s b, rfl, itemCount_le _ _, fun _ _ => rfl,
    fun _ _ => itemEvent_before_last, itemEvent_last, hexec, hregs, hfb, hdirty, hex, hend, hqueue, hwake, hstop,
    hcstate, hpstate, hparams⟩

end Sys2Proof.Machine

/-! # The Raster ALU and the pixel pipeline

What a run of the engine may change in the framebuffer and which pages it marks (43 R257, R262, R265, R266); PIXEL
on one position (43 R253 to R262); the Raster ALU's table and the rows that run one stage alone (43 R250, R254,
R256, R258, R259). -/

namespace Sys2Proof.Machine

open Sys2Proof

/-! ## The rows that draw -/

section Drawing

variable {lo : BitVec 13} {hi9 : BitVec 9} {l3 : BitVec 3} {sp : BusSpace} {lane : BitVec 2} {o : BitVec 15} {b : Byte}
  {i : Instr} {s t : State}

/-- The rows a primitive draws in: every command word, and the two pixel-transfer bytes. -/
def drawingRows (lo : BitVec 13) (hi9 : BitVec 9) (l3 : BitVec 3) (sp : BusSpace) (lane : BitVec 2) (o : BitVec 15)
    (b : Byte) : List Instr :=
  [.cmdNop lo, .cmdLine lo, .cmdRect lo, .cmdRsv3 lo, .cmdRsv4 lo, .cmdRsv5 lo, .cmdBlit lo, .cmdPat lo,
    .cmdLineBresenham hi9 l3, .cmdLineRadial hi9 l3, .wPixTrans sp lane b, .wPixTransWindow o b]

/-- A drawing row commits a command word or writes a pixel byte. -/
theorem drawingRow_exec (hi : i ∈ drawingRows lo hi9 l3 sp lane o b) (s : State) :
    (∃ c, exec i s = .next (s.commitCmd c)) ∨ exec i s = .next (s.writePixel b) := by
  simp only [drawingRows, List.mem_cons, List.not_mem_nil, or_false] at hi
  rcases hi with rfl | rfl | rfl | rfl | rfl | rfl | rfl | rfl | rfl | rfl | hpix
  iterate 10 exact .inl ⟨_, rfl⟩
  exact .inr (pixelRow_exec (sp := sp) (lane := lane) (o := o) (by simpa using hpix))

/-- A drawing row is a run of the engine. -/
theorem drawingRow_run (hi : i ∈ drawingRows lo hi9 l3 sp lane o b) (h : exec i s = .next t) : EngineRun s t := by
  rcases drawingRow_exec hi s with ⟨c, hc⟩ | hp
  · cases hc.symm.trans h
    exact commitCmd_run c s
  · cases hp.symm.trans h
    exact writePixel_run b s

end Drawing

/-! ## Parameters -/

theorem validParams.config {p : Params} (h : validParams p) : configOk p.pb p.pitch p.vramBytes = true := h.2.2

theorem validParams.pb_le {p : Params} (h : validParams p) : p.pb ≤ 4 := by
  rcases configOk_pb h.config with hpb | hpb | hpb <;> omega

/-! ## Clipping -/

/-- The clip gate in the words of 43 R257. -/
theorem Regs.inClip_iff (r : Regs) (x y : Half) :
    r.inClip x y = true ↔ (r.mf[2].toNat : Int) ≤ x.toInt ∧ x.toInt ≤ (r.mf[4].toNat : Int) ∧
      (r.mf[1].toNat : Int) ≤ y.toInt ∧ y.toInt ≤ (r.mf[3].toNat : Int) := by
  simp only [Regs.inClip, Bool.and_eq_true, decide_eq_true_eq, and_assoc]
  rfl

/-- Settles O52: a drawing row is a run of the engine, and such a run writes inside the clip only. -/
theorem clipConfinesEveryWrite : Obligations.ClipConfinesEveryWrite := by
  intro s t lo hi9 l3 sp lane o b hwf i hi hexec a hout
  refine (drawingRow_run hi hexec).clip hwf a fun x y hin => ?_
  obtain ⟨hleft, hright, htop, hbottom⟩ := (s.regs.inClip_iff x y).1 hin
  exact hout x y hleft hright htop hbottom

/-! ## The dirty bitmap -/

/-- From `s` to `t` no page is cleared and the page of every changed byte is marked (43 R262). -/
def marksChanges (s t : State) : Prop :=
  (∀ q ∈ s.dirty, q ∈ t.dirty) ∧ ∀ a : Nat, t.fb.read a ≠ s.fb.read a → a / 4096 ∈ t.dirty

theorem marksChanges.refl (s : State) : marksChanges s s := ⟨fun _ h => h, fun _ h => absurd rfl h⟩

theorem marksChanges.trans {s t u : State} (h : marksChanges s t) (h' : marksChanges t u) : marksChanges s u := by
  obtain ⟨hkeep, hmark⟩ := h
  obtain ⟨hkeep', hmark'⟩ := h'
  refine ⟨fun q hq => hkeep' q (hkeep q hq), fun a ha => ?_⟩
  by_cases htu : u.fb.read a = t.fb.read a
  · exact hkeep' _ (hmark a (htu ▸ ha))
  · exact hmark' a htu

/-- A pixel marks the one page its bytes lie in. -/
theorem pixel_marksChanges {s : State} (hp : validParams s.params) (hwf : Memory.wf s.fb) (x y : Half) (item : Item)
    (src : Option Nat) : marksChanges s (s.pixel x y item src) := by
  rcases pixel_fb s x y item src with ⟨hfb, hdirty⟩ | ⟨p, -, -, hfb, hdirty⟩
  · exact ⟨fun q hq => hdirty ▸ hq, fun a ha => absurd (by rw [hfb]) ha⟩
  · refine ⟨fun q hq => hdirty ▸ mem_insertPage.2 (.inr hq), fun a ha => ?_⟩
    have hpix : ∃ i < s.params.pb, a = (pixAddr s.params x y + i) % s.params.vramBytes := by
      by_contra hno
      push Not at hno
      exact ha (hfb ▸ read_scatterLE_other hwf _ a hno)
    obtain ⟨i, hi, rfl⟩ := hpix
    rw [hdirty, pixAddr_mod hp.config x y hi, pixAddr_page hp.config x y hi]
    exact mem_insertPage.2 (.inl rfl)

/-- A run of the engine marks what it changes. -/
theorem EngineRun.marksChanges {s t : State} (h : EngineRun s t) (hp : validParams s.params) (hwf : Memory.wf s.fb) :
    marksChanges s t := by
  induction h with
  | refl => exact .refl s
  | pixel x y item src ht ih => exact ih.trans (pixel_marksChanges (ht.params ▸ hp) (ht.fb_wf hwf) x y item src)
  | ex e _ ih => exact ih
  | regs r _ _ ih => exact ih

/-- Settles O53: a drawing row is a run of the engine, which marks what it changes. -/
theorem changedBytesAreMarkedDirty : Obligations.ChangedBytesAreMarkedDirty :=
  fun _ _ _ _ _ _ _ _ _ hp hwf _ hi hexec => (drawingRow_run hi hexec).marksChanges hp hwf

/-! ## What a pixel writes -/

/-- The mix register a pixel uses. -/
theorem pipeFront_mix (s : State) (item : Item) (src : Option Nat) :
    (s.pipeFront item src).mix =
      if selector s.ex.ms s.ex item (s.srcRead src) = true then s.regs.frgdMix else s.regs.bkgdMix := rfl

/-- The value a pixel writes: the masked merge of the mix of source and destination (43 R259, R260). -/
theorem pipeBack_out (s : State) (a : Nat) (p : Pipe) :
    (s.pipeBack a p).out = maskMerge s.params.pb s.regs.wrtMask
      (mixFn (mixCode p.mix) p.src (s.memRead a) &&& pixMask s.params.pb) (s.memRead a) := rfl

/-! ## The pass-through mix -/

/-- Both mix registers hold MIX_CODE 3, the function D (43 R250, R265). -/
def passThrough (r : Regs) : Prop := mixCode r.frgdMix = 3#4 ∧ mixCode r.bkgdMix = 3#4

theorem sameLive.passThrough {r r' : Regs} (h : sameLive r r') (hr : passThrough r) : passThrough r' := by
  rw [h]
  exact hr

theorem passThrough.pipeFront {s : State} (h : passThrough s.regs) (item : Item) (src : Option Nat) :
    mixCode (s.pipeFront item src).mix = 3#4 := by
  rw [pipeFront_mix]
  split
  · exact h.1
  · exact h.2

/-- Merging a value with itself gives its bits inside the pixel (43 R260). -/
theorem maskMerge_self (pb : Nat) (mask d : Word) : maskMerge pb mask d d = d &&& pixMask pb := by
  have hbits : (d &&& mask) ||| (d &&& ~~~mask) = d := by
    rw [← BitVec.and_or_distrib_left, BitVec.or_not_self, BitVec.and_allOnes]
  rw [maskMerge, hbits]

/-- With code 3 the pipeline's output is the destination it read. -/
theorem pipeBack_out_of_mixD (s : State) (a : Nat) {p : Pipe} (h : mixCode p.mix = 3#4) :
    (s.pipeBack a p).out = s.memRead a := by
  have hr : mixFn (mixCode p.mix) p.src (s.memRead a) &&& pixMask s.params.pb = s.memRead a := by
    rw [h]
    exact memRead_mask s a
  calc (s.pipeBack a p).out
      = maskMerge s.params.pb s.regs.wrtMask
          (mixFn (mixCode p.mix) p.src (s.memRead a) &&& pixMask s.params.pb) (s.memRead a) := pipeBack_out s a p
    _ = s.memRead a &&& pixMask s.params.pb := by rw [hr, maskMerge_self]
    _ = s.memRead a := memRead_mask s a

/-- A pixel under the pass-through mix writes back what it read. -/
theorem passThrough.pixel_fb {s : State} (h : passThrough s.regs) (hp : validParams s.params) (hwf : Memory.wf s.fb)
    (x y : Half) (item : Item) (src : Option Nat) : (s.pixel x y item src).fb = s.fb := by
  rcases Machine.pixel_fb s x y item src with ⟨hfb, -⟩ | ⟨p, -, hback, hfb, -⟩
  · exact hfb
  · have hout : p.out = s.memRead (pixAddr s.params x y) := by
      rw [hback]
      exact pipeBack_out_of_mixD s _ (h.pipeFront item src)
    rw [hfb, hout]
    exact scatterLE_self hwf hp.pb_le _ _ (Nat.le_refl _)

/-- A run of the engine under the pass-through mix leaves the framebuffer; the run itself writes no mix register. -/
theorem EngineRun.fb_of_passThrough {s t : State} (h : EngineRun s t) (hr : passThrough s.regs)
    (hp : validParams s.params) (hwf : Memory.wf s.fb) : t.fb = s.fb := by
  induction h with
  | refl => rfl
  | pixel x y item src ht ih =>
    exact ((ht.live.passThrough hr).pixel_fb (ht.params ▸ hp) (ht.fb_wf hwf) x y item src).trans ih
  | ex e _ ih => exact ih
  | regs r _ _ ih => exact ih

/-- Settles O54: a drawing row is a run of the engine, and every pixel of it writes back what it read. -/
theorem passThroughMixLeavesTheFramebuffer : Obligations.PassThroughMixLeavesTheFramebuffer := by
  intro s t lo hi9 l3 sp lane o b hp hwf hfrgd hbkgd i hi hexec a
  rw [(drawingRow_run hi hexec).fb_of_passThrough ⟨hfrgd, hbkgd⟩ hp hwf]

/-! ## PIXEL on one position -/

/-- A pixel read back after its write: the bits of the value inside the pixel (20 R72, R74). -/
theorem memRead_pixel_write {s t : State} (hp : validParams s.params) (hwf : Memory.wf s.fb)
    (hparams : t.params = s.params) (x y : Half) (v : Word)
    (hfb : t.fb = scatterLE s.params.vramBytes (pixAddr s.params x y) v s.fb s.params.pb) :
    t.memRead (pixAddr s.params x y) = v &&& pixMask s.params.pb := by
  apply BitVec.eq_of_getLsbD_eq
  intro k hk
  rw [State.memRead, gatherLE_bit _ _ hk, hparams, BitVec.getLsbD_and, pixMask, pixMask_bit_eq _ _ hk]
  by_cases hpix : k < 8 * s.params.pb
  · have hbyte : k / 8 < s.params.pb := by omega
    have hread : t.fbAt (pixAddr s.params x y + k / 8) = byteOf v (k / 8) := by
      rw [State.fbAt, hparams, pixAddr_mod hp.config x y hbyte, hfb, read_pixel_write hp.config hwf x y v hbyte]
    rw [hread, byteOf, BitVec.getLsbD_extractLsb']
    simp [hpix, Nat.mod_lt, Nat.div_add_mod]
  · simp [hpix]

theorem maskMerge_mask (pb : Nat) (mask r d : Word) : maskMerge pb mask r d &&& pixMask pb = maskMerge pb mask r d := by
  rw [maskMerge, BitVec.and_assoc, BitVec.and_self]

section Gates

variable {s : State} {x y : Half} {item : Item} {src : Option Nat}

/-- With a gate closed PIXEL writes and marks nothing (43 R257, R258). -/
theorem pixel_closed (h : ¬ (s.regs.inClip x y = true ∧
      cmpPass s.regs.cmpMode s.params.pb s.regs.colorCmp (s.pipeFront item src).src = true)) :
    (s.pixel x y item src).fb = s.fb ∧ (s.pixel x y item src).dirty = s.dirty := by
  rcases pixel_cases s x y item src with ⟨p, hpixel, -⟩ | ⟨-, -, -, hopen⟩
  · rw [hpixel]
    exact ⟨rfl, rfl⟩
  · exact absurd hopen h

/-- With both gates open PIXEL writes the masked mix at the pixel and marks its page (43 R259 to R262). -/
theorem pixel_open (h : s.regs.inClip x y = true ∧
      cmpPass s.regs.cmpMode s.params.pb s.regs.colorCmp (s.pipeFront item src).src = true) :
    (s.pixel x y item src).fb = scatterLE s.params.vramBytes (pixAddr s.params x y)
        (maskMerge s.params.pb s.regs.wrtMask
          (mixFn (mixCode (s.pipeFront item src).mix) (s.pipeFront item src).src (s.memRead (pixAddr s.params x y))
            &&& pixMask s.params.pb)
          (s.memRead (pixAddr s.params x y))) s.fb s.params.pb ∧
      (s.pixel x y item src).dirty = insertPage (pageOf (pixAddr s.params x y)) s.dirty := by
  rcases pixel_cases s x y item src with ⟨-, -, hclosed⟩ | ⟨p, hpixel, hfront, -⟩
  · exact absurd h hclosed
  · rw [hpixel, hfront, pipeBack_out]
    exact ⟨rfl, rfl⟩

end Gates

/-- Settles O57: the pipeline's front gives the statement's mix register and source; then a gate is closed, or the
pixel is read back from the bytes written. -/
theorem pixelFollowsThePipeline : Obligations.PixelFollowsThePipeline := by
  intro s x y item srcaddr hp hwf vsrc src d r sel mix mask a hmask hvsrc hsel hmix hsrc ha hd hr
  subst hmask ha hd hr
  have hread : vsrc = s.srcRead srcaddr := by
    rw [hvsrc]
    cases srcaddr <;> rfl
  have hmixreg : (s.pipeFront item srcaddr).mix = mix := by rw [pipeFront_mix, hmix, hsel, hread]
  have hsource : (s.pipeFront item srcaddr).src = src := by
    rw [hsrc, ← hmixreg, hread]
    rfl
  refine ⟨_, _, _, pixel_frame s x y item srcaddr, fun hopen => ?_, fun hclosed => ?_⟩
  · obtain ⟨hfb, hdirty⟩ := pixel_open (hsource.symm ▸ hopen)
    rw [hmixreg, hsource] at hfb
    rw [← pixel_frame]
    refine ⟨?_, fun q hq => ?_, fun q => ?_⟩
    · rw [memRead_pixel_write hp hwf (pixel_params s x y item srcaddr) x y _ hfb, maskMerge_mask]
      rfl
    · rw [hfb]
      exact read_scatterLE_other hwf _ q fun i hi he => hq ⟨i, hi, he⟩
    · rw [hdirty]
      exact mem_insertPage
  · exact pixel_closed (hsource.symm ▸ hclosed)

/-! ## The Raster ALU's table -/

/-- The table of 43 R250: each code with its function's values at (S, D) = (0, 0), (0, 1), (1, 0), (1, 1). -/
def mixTable : List (BitVec 4 × Bool × Bool × Bool × Bool) :=
  [(0x0#4, true, false, true, false), (0x1#4, false, false, false, false), (0x2#4, true, true, true, true),
    (0x3#4, false, true, false, true), (0x4#4, true, true, false, false), (0x5#4, false, true, true, false),
    (0x6#4, true, false, false, true), (0x7#4, false, false, true, true), (0x8#4, true, true, true, false),
    (0x9#4, true, true, false, true), (0xA#4, true, false, true, true), (0xB#4, false, true, true, true),
    (0xC#4, false, false, false, true), (0xD#4, false, false, true, false), (0xE#4, false, true, false, false),
    (0xF#4, true, false, false, false)]

/-- The Raster ALU works bit by bit: a result bit is that of the two argument bits repeated over the word. -/
theorem mixFn_bit (code : BitVec 4) (S D : Word) {k : Nat} (hk : k < 32) :
    (mixFn code S D).getLsbD k = (mixFn code (.fill 32 (S.getLsbD k)) (.fill 32 (D.getLsbD k))).getLsbD 0 := by
  unfold mixFn
  split <;> simp [hk, -BitVec.reduceNot, -BitVec.reduceAllOnes]

/-- On single bits the Raster ALU is its table. -/
theorem mixFn_fill : ∀ row ∈ mixTable, ∀ x y : Bool,
    (mixFn row.1 (.fill 32 x) (.fill 32 y)).getLsbD 0 =
      if x = true then (if y = true then row.2.2.2.2 else row.2.2.2.1)
      else (if y = true then row.2.2.1 else row.2.1) := by
  decide +kernel

/-- Settles O58: a result bit is a function of the two bits, and that function is the table's row. -/
theorem rasterAluTruthTable : Obligations.RasterAluTruthTable := by
  intro S D code f00 f01 f10 f11 hrow k hk
  rw [mixFn_bit code S D hk]
  exact mixFn_fill _ hrow (S.getLsbD k) (D.getLsbD k)

/-! ## The rows that run one stage alone -/

/-- The MIX rows in the order of their codes. -/
def mixInstrs (hi : BitVec 12) : List Instr :=
  [.mixNotD hi, .mixZero hi, .mixOne hi, .mixD hi, .mixNotS hi, .mixSXorD hi, .mixSXnorD hi, .mixS hi, .mixSNandD hi,
    .mixNotSOrD hi, .mixSOrNotD hi, .mixSOrD hi, .mixSAndD hi, .mixSAndNotD hi, .mixNotSAndD hi, .mixSNorD hi]

/-- Row by row of the table, a MIX instruction runs the mix stage with the row's code. -/
theorem mixInstrs_exec (hi : BitVec 12) (s : State) :
    List.Forall₂ (fun i row => exec i s = runMix row.1 s) (mixInstrs hi) mixTable := by
  iterate 16 refine .cons rfl ?_
  exact .nil

/-- A MIX instruction paired with its function's values runs a code whose table row has these values. -/
theorem mixRow_exec {hi : BitVec 12} {i : Instr} {f : Bool × Bool × Bool × Bool}
    (hrow : (i, f) ∈ (mixInstrs hi).zip (mixTable.map Prod.snd)) (s : State) :
    ∃ code, (code, f) ∈ mixTable ∧ exec i s = runMix code s := by
  rw [List.zip_map_right] at hrow
  obtain ⟨⟨j, code, g⟩, hmem, heq⟩ := List.mem_map.1 hrow
  cases heq
  exact ⟨code, (List.of_mem_zip hmem).2, (List.forall₂_iff_zip.1 (mixInstrs_exec hi s)).2 hmem⟩

/-- Settles O59: the row's code, the truth table of that code, and the pixel mask. -/
theorem mixRowsComputeTheirFunction : Obligations.MixRowsComputeTheirFunction := by
  intro s hi i f00 f01 f10 f11 hrow
  obtain ⟨code, hcode, hexec⟩ := mixRow_exec (hi := hi) hrow s
  refine ⟨mixFn code s.pipe.src s.pipe.d &&& pixMask s.params.pb, hexec, fun k hk => ?_⟩
  rw [BitVec.getLsbD_and, pixMask, pixMask_bit_eq _ _ hk, Bool.and_comm,
    rasterAluTruthTable s.pipe.src s.pipe.d code f00 f01 f10 f11 hcode k hk]

theorem Cls.readsSource_iff (c : Cls) : c.readsSource = true ↔ c = .blit ∨ c = .pat := by
  cases c <;> simp [Cls.readsSource]

/-- The source stage alone, by the datum it selects (43 R256). -/
theorem runSrc_eq {s : State} {sel : BitVec 2} {v : Word}
    (h : source sel s.ex s.regs s.pipe.item s.pipe.vsrc = v) :
    runSrc sel s = .next { s with pipe := { s.pipe with src := v &&& pixMask s.params.pb } } := by
  subst h
  rfl

/-- The selector stage alone, by the bit it selects (43 R254). -/
theorem runMixSel_eq {s : State} {ms : BitVec 2} {b : Bool} (h : selector ms s.ex s.pipe.item s.pipe.vsrc = b) :
    runMixSel ms s = .next { s with pipe := { s.pipe with sel := b } } := by
  subst h
  rfl

/-- The compare stage alone, by the gate's answer (43 R258). -/
theorem runCmp_eq {s : State} {mode : BitVec 2} {b : Bool}
    (h : cmpPass mode s.params.pb s.regs.colorCmp s.pipe.src = b) :
    runCmp mode s = .next { s with pipe := { s.pipe with pass := b } } := by
  subst h
  rfl

/-- The CPU's datum is the source of a COLOUR feed alone (43 R256). -/
theorem source_cpuData (e : Ex) (r : Regs) (item : Item) (vsrc : Word) :
    source 2#2 e r item vsrc = match e.feed, item with | .colour, .pix d => d | _, _ => 0#32 := by
  unfold source
  cases e.feed <;> cases item <;> rfl

/-- The CPU's bit is the selector of a MONO feed alone (43 R254). -/
theorem selector_cpuData (e : Ex) (item : Item) (vsrc : Word) :
    selector 2#2 e item vsrc = match e.feed, item with | .mono, .bit d => d | _, _ => true := by
  unfold selector
  cases e.feed <;> cases item <;> rfl

/-- Settles O60: each row runs its stage with the selection its name says. -/
theorem selectorSourceAndCompareRows : Obligations.SelectorSourceAndCompareRows := by
  intro s mask hmask
  subst hmask
  refine ⟨fun hi lo i v hrow => ?_, fun hi lo i b hrow => ?_, fun hi lo i b hrow => ?_⟩
  all_goals
    simp only [List.mem_cons, List.not_mem_nil, or_false, Prod.mk.injEq] at hrow
    rcases hrow with ⟨rfl, rfl⟩ | ⟨rfl, rfl⟩ | ⟨rfl, rfl⟩ | ⟨rfl, rfl⟩
  case refine_1.inl | refine_1.inr.inl => exact runSrc_eq rfl
  case refine_1.inr.inr.inl => exact runSrc_eq (source_cpuData s.ex s.regs s.pipe.item s.pipe.vsrc)
  case refine_1.inr.inr.inr => exact runSrc_eq (if_congr s.ex.cls.readsSource_iff rfl rfl)
  case refine_2.inl | refine_2.inr.inl => exact runMixSel_eq rfl
  case refine_2.inr.inr.inl => exact runMixSel_eq (selector_cpuData s.ex s.pipe.item s.pipe.vsrc)
  case refine_2.inr.inr.inr => exact runMixSel_eq (if_congr s.ex.cls.readsSource_iff rfl rfl)
  case refine_3.inl | refine_3.inr.inl | refine_3.inr.inr.inl | refine_3.inr.inr.inr => exact runCmp_eq rfl

end Sys2Proof.Machine

/-! # The primitives: feed units, and what a command word begins

The items of a feed unit (44 R292, R293); the rows that start a primitive and those that only abandon one (44 R280 to
R282); the snapshot each class takes (44 R291, R300, R310, R320, R330). -/

namespace Sys2Proof.Machine

open Sys2Proof

/-! ## Feed units -/

/-- Item `k` of a byte is its bit `7 - k` (44 R292). -/
theorem monoBits_getElem? (b : Byte) {k : Nat} (hk : k < 8) :
    (monoBits b)[k]? = some (.bit (b.getLsbD (7 - k))) := by
  interval_cases k <;> rfl

/-- Item `k` of a MONO unit is a bit of byte `k / 8` (44 R292). -/
theorem flatMap_monoBits_getElem? (u : List Byte) {k : Nat} (hk : k < 8 * u.length) :
    (u.flatMap monoBits)[k]? = some (.bit ((u.getD (k / 8) 0#8).getLsbD (7 - k % 8))) := by
  induction u generalizing k with
  | nil => exact absurd hk (Nat.not_lt_zero k)
  | cons b u ih =>
    have hlen : (monoBits b).length = 8 := rfl
    rw [List.flatMap_cons]
    by_cases hfirst : k < 8
    · rw [List.getElem?_append_left (hlen ▸ hfirst), monoBits_getElem? b hfirst, Nat.div_eq_of_lt hfirst,
        Nat.mod_eq_of_lt hfirst]
      rfl
    · have hdiv : k / 8 = (k - 8) / 8 + 1 := by omega
      have hmod : k % 8 = (k - 8) % 8 := by omega
      rw [List.length_cons] at hk
      rw [List.getElem?_append_right (by omega), hlen, ih (by omega), hdiv, hmod]
      rfl

theorem length_flatMap_monoBits (u : List Byte) : (u.flatMap monoBits).length = 8 * u.length := by
  induction u with
  | nil => rfl
  | cons b u ih =>
    rw [List.flatMap_cons, List.length_append, ih, List.length_cons, Nat.mul_succ, Nat.add_comm]
    rfl

/-- Item `j` of a COLOUR unit is the value of its pixel's bytes (44 R292). -/
theorem colourPixels_getElem? (pb : Nat) (u : List Byte) {j : Nat} (hj : j < u.length / pb) :
    (colourPixels pb u)[j]? = some (.pix (gatherLE (fun k => u.getD (j * pb + k) 0#8) pb)) := by
  rw [colourPixels, List.getElem?_map, List.getElem?_range hj]
  rfl

theorem length_colourPixels (pb : Nat) (u : List Byte) : (colourPixels pb u).length = u.length / pb := by
  rw [colourPixels, List.length_map, List.length_range]

/-- With BYTE_SWAP set the pairs change places (44 R293). -/
theorem swapUnit_set {c : Half} (hc : c.getLsbD 12 = true) (u : List Byte) : swapUnit c u = swapPairs u := if_pos hc

/-- With BYTE_SWAP clear a unit stays as it is (44 R293). -/
theorem swapUnit_clear {c : Half} (hc : c.getLsbD 12 = false) (u : List Byte) : swapUnit c u = u :=
  if_neg (ne_true_of_eq_false hc)

/-- A unit of one byte has no pair (44 R293). -/
theorem swapUnit_singleton (c : Half) (a : Byte) : swapUnit c [a] = [a] := ite_self [a]

/-- Settles O43: the items of either feed by their index, and the two cases of BYTE_SWAP. -/
theorem feedUnitItemsAreInOrder : Obligations.FeedUnitItemsAreInOrder := by
  intro u
  refine ⟨fun pb => ⟨length_flatMap_monoBits u, fun k hk => flatMap_monoBits_getElem? u hk⟩,
    fun pb hpb => ⟨length_colourPixels pb u, fun j hj => ?_⟩,
    fun c a b d e => ⟨swapUnit_singleton c a, fun hc => ⟨swapUnit_set hc _, swapUnit_set hc _⟩,
      fun hc => swapUnit_clear hc u⟩⟩
  have hpb4 : pb ≤ 4 := by omega
  exact ⟨_, colourPixels_getElem? pb u hj, gatherLE_lt _ pb hpb4, fun k hk => byteOf_gatherLE _ hk hpb4⟩

/-! ## The command rows -/

/-- The class of a command word is that of its bits 15:13 (30 R121). -/
theorem classOf_congr {c d : Half} (h : c.extractLsb' 13 3 = d.extractLsb' 13 3) : classOf c = classOf d := by
  unfold classOf
  rw [h]

theorem classOf_append (k : BitVec 3) (lo : BitVec 13) : classOf (k ++ lo) = classOf (k ++ 0#13) :=
  classOf_congr ((high_of_two k lo).trans (high_of_two k 0#13).symm)

/-- Either form of a Line's word has a Line's class. -/
theorem classOf_lineWord (hi9 : BitVec 9) (r : BitVec 1) (l3 : BitVec 3) :
    classOf (lineWord hi9 r l3) = some .line := by
  have hclass : (lineWord hi9 r l3).extractLsb' 13 3 = 1#3 :=
    (extract_append_high _ l3 (by omega)).trans (high_of_three 1#3 hi9 r)
  exact classOf_congr (d := 1#3 ++ 0#13) (hclass.trans (high_of_two 1#3 0#13).symm)

/-- The rows that start a primitive, each with its word and its class. -/
def primitiveRows (lo : BitVec 13) (hi9 : BitVec 9) (l3 : BitVec 3) : List (Instr × Half × Cls) :=
  [(Instr.cmdLine lo, 1#3 ++ lo, Cls.line), (.cmdRect lo, 2#3 ++ lo, .rect), (.cmdBlit lo, 6#3 ++ lo, .blit),
    (.cmdPat lo, 7#3 ++ lo, .pat), (.cmdLineBresenham hi9 l3, 1#3 ++ hi9 ++ 0#1 ++ l3, .line),
    (.cmdLineRadial hi9 l3, 1#3 ++ hi9 ++ 1#1 ++ l3, .line)]

/-- A primitive's row commits its word, which starts its class (42 R210; 30 R121). -/
theorem primitiveRow_exec {lo : BitVec 13} {hi9 : BitVec 9} {l3 : BitVec 3} {i : Instr} {c : Half} {cls : Cls}
    (hrow : (i, c, cls) ∈ primitiveRows lo hi9 l3) (s : State) :
    exec i s = .next (s.commitCmd c) ∧ classOf c = some cls := by
  simp only [primitiveRows, List.mem_cons, List.not_mem_nil, or_false, Prod.mk.injEq] at hrow
  rcases hrow with ⟨rfl, rfl, rfl⟩ | ⟨rfl, rfl, rfl⟩ | ⟨rfl, rfl, rfl⟩ | ⟨rfl, rfl, rfl⟩ | ⟨rfl, rfl, rfl⟩ |
    ⟨rfl, rfl, rfl⟩
  iterate 4 exact ⟨rfl, classOf_append _ lo⟩
  iterate 2 exact ⟨rfl, classOf_lineWord hi9 _ l3⟩

/-- Settles O45: none of the four classes is a primitive's, so the commit only clears what waits. -/
theorem noOpCommandsOnlyAbandon : Obligations.NoOpCommandsOnlyAbandon := by
  intro s lo i k hrow
  have hnone : ∀ k ∈ [0#3, 3#3, 4#3, 5#3], s.commitCmd (k ++ lo) = s.cleared (k ++ lo) := by
    intro k hk
    refine commitCmd_none ((classOf_append k lo).trans ?_)
    revert k
    decide
  simp only [List.mem_cons, List.not_mem_nil, or_false, Prod.mk.injEq] at hrow
  rcases hrow with ⟨rfl, rfl⟩ | ⟨rfl, rfl⟩ | ⟨rfl, rfl⟩ | ⟨rfl, rfl⟩
  all_goals exact congrArg Host.Outcome.next (hnone _ (by simp))

/-! ## What a primitive begins with -/

/-- The snapshot of a Rectangle Fill (44 R310). -/
theorem rect_start (s : State) (c : Half) :
    (s.exAtStart .rect c).x = s.regs.curX ∧ (s.exAtStart .rect c).y = s.regs.curY ∧
      (s.exAtStart .rect c).x0 = s.regs.curX := by
  unfold State.exAtStart startEx setupClass
  rw [(setupFeed_fields _ _ _).1]
  exact ⟨rfl, rfl, rfl⟩

/-- The snapshot of a BitBlt (44 R320). -/
theorem blit_start (s : State) (c : Half) :
    ((s.exAtStart .blit c).x = s.regs.destxDiastp ∧ (s.exAtStart .blit c).y = s.regs.destyAxstp ∧
      (s.exAtStart .blit c).x0 = s.regs.destxDiastp) ∧
      (s.exAtStart .blit c).sx = s.regs.curX ∧ (s.exAtStart .blit c).sy = s.regs.curY ∧
      (s.exAtStart .blit c).sx0 = s.regs.curX := by
  unfold State.exAtStart startEx setupClass
  rw [(setupFeed_fields _ _ _).1]
  exact ⟨⟨rfl, rfl, rfl⟩, rfl, rfl, rfl⟩

/-- The snapshot of a Pattern Fill (44 R330). -/
theorem pat_start (s : State) (c : Half) :
    ((s.exAtStart .pat c).x = s.regs.destxDiastp ∧ (s.exAtStart .pat c).y = s.regs.destyAxstp ∧
      (s.exAtStart .pat c).x0 = s.regs.destxDiastp) ∧
      (s.exAtStart .pat c).tx = s.regs.curX &&& 0xFFF8#16 ∧ (s.exAtStart .pat c).px = s.regs.curX.setWidth 3 ∧
      (s.exAtStart .pat c).ty = s.regs.curY &&& 0xFFF8#16 ∧ (s.exAtStart .pat c).py = s.regs.curY.setWidth 3 ∧
      (s.exAtStart .pat c).px0 = s.regs.curX.setWidth 3 := by
  unfold State.exAtStart startEx setupClass
  rw [(setupFeed_fields _ _ _).1]
  exact ⟨⟨rfl, rfl, rfl⟩, rfl, rfl, rfl, rfl, rfl⟩

/-- The coordinate of a tile: the multiple of 8 at or below (44 R330). -/
theorem toNat_and_tileMask (v : Half) : (v &&& 0xFFF8#16).toNat = v.toNat / 8 * 8 := by
  have hmask : v &&& 0xFFF8#16 = v >>> 3 <<< 3 := by
    apply BitVec.eq_of_getLsbD_eq
    intro k hk
    interval_cases k <;> simp
  rw [hmask, BitVec.toNat_shiftLeft, BitVec.toNat_ushiftRight, Nat.shiftLeft_eq, Nat.shiftRight_eq_div_pow]
  omega

/-- The extent of a primitive is zero exactly when a count of it is (44 R283). -/
theorem extentOf_eq_zero {cls : Cls} {r : Regs} :
    extentOf cls r = 0 ↔ r.majAxisPcnt = 0#12 ∨ cls ≠ .line ∧ r.mf[0] = 0#12 := by
  have hzero : ∀ v : Slot12, v.toNat = 0 ↔ v = 0#12 := fun v => BitVec.toNat_inj (y := 0#12)
  cases cls <;> simp [extentOf, Regs.minAxisPcnt, hzero]

/-- A CPU-fed command with a nonzero extent only takes its snapshot (44 R280). -/
theorem commitCmd_fed {s : State} {c : Half} {cls : Cls} (h : classOf c = some cls) (hp : pcData c = true)
    (h0 : extentOf cls s.regs ≠ 0) :
    s.commitCmd c = (s.cleared c).withEx { s.exAtStart cls c with active := true } := by
  rw [commitCmd_some h, if_neg h0, if_neg (ne_false_of_eq_true hp)]

/-- Settles O46: the command takes its snapshot and waits; the fields are those of the snapshot of its class. -/
theorem cpuFedCommandsWaitForData : Obligations.CpuFedCommandsWaitForData := by
  intro s lo hi9 l3 i c cls hrow hp hmaj hmin
  obtain ⟨hexec, hcls⟩ := primitiveRow_exec (lo := lo) (hi9 := hi9) (l3 := l3) hrow s
  have h0 : extentOf cls s.regs ≠ 0 := fun hz =>
    (extentOf_eq_zero.1 hz).elim hmaj fun ⟨hline, hrows⟩ => hmin hline hrows
  obtain ⟨hcls', hcmd, hms, -, -⟩ := exAtStart_fields s cls c
  obtain ⟨hleft, harea, hfeed⟩ := exAtStart_counts s cls c
  obtain ⟨hmono, hcolour⟩ := hfeed hp
  refine ⟨{ s.exAtStart cls c with active := true }, hexec.trans (congrArg _ (commitCmd_fed hcls hp h0)), rfl, hcls',
    hcmd, hms, fun h => hmono (hms.symm.trans h), fun h => hcolour fun h' => h (hms.trans h'), hleft, harea,
    ?line, ?rect, ?area, ?blit, ?pat⟩
  case line =>
    rintro rfl
    exact line_start s c
  case rect =>
    rintro rfl
    exact rect_start s c
  case area =>
    rintro (rfl | rfl)
    · exact (blit_start s c).1
    · exact (pat_start s c).1
  case blit =>
    rintro rfl
    exact (blit_start s c).2
  case pat =>
    rintro rfl
    obtain ⟨-, htx, hpx, hty, hpy, hpx0⟩ := pat_start s c
    dsimp only
    rw [htx, hpx, hty, hpy, hpx0]
    exact ⟨toNat_and_tileMask _, BitVec.toNat_setWidth _ _, toNat_and_tileMask _, BitVec.toNat_setWidth _ _, rfl⟩

end Sys2Proof.Machine

/-! # One STEP of a primitive

Coordinates as integers (44 R288), the move of each class (44 R302, R303, R311, R321, R331), and STEP as a pixel and a
move. -/

namespace Sys2Proof.Machine

open Sys2Proof

/-! ## Coordinates -/

/-- Adding a step given as an integer, wrapped to 16 bits (44 R288). -/
theorem add_ofInt (v : Half) (d : Int) : v + BitVec.ofInt 16 d = BitVec.ofInt 16 (v.toInt + d) := by
  rw [BitVec.ofInt_add, BitVec.ofInt_toInt]

/-- Adding a signed word, wrapped to 16 bits (44 R288). -/
theorem add_eq_ofInt (v w : Half) : v + w = BitVec.ofInt 16 (v.toInt + w.toInt) := by
  rw [← add_ofInt, BitVec.ofInt_toInt]

/-- Adding a tile phase, wrapped to 16 bits (44 R331). -/
theorem add_phase (v : Half) (p : BitVec 3) : v + p.setWidth 16 = BitVec.ofInt 16 (v.toInt + (p.toNat : Int)) := by
  rw [← add_ofInt, BitVec.ofInt_natCast]
  exact congrArg (v + ·) (BitVec.ofNat_toNat 16 p).symm

theorem unitStep_eq_ofInt (b : Bool) : unitStep b = BitVec.ofInt 16 (if b = true then 1 else -1) := by
  cases b <;> rfl

/-- A unit step of a coordinate (44 R288). -/
theorem add_unitStep (v : Half) (b : Bool) :
    v + unitStep b = BitVec.ofInt 16 (v.toInt + if b = true then 1 else -1) := by
  rw [unitStep_eq_ofInt, add_ofInt]

/-- A unit step of a tile phase, modulo 8 (44 R331). -/
theorem eq_phase_add_unitStep (b : Bool) {p q : BitVec 3}
    (h : (q.toNat : Int) = ((p.toNat : Int) + if b = true then 1 else -1) % 8) :
    q = p + (unitStep b).setWidth 3 := by
  apply BitVec.eq_of_toNat_eq
  cases b
  · have hstep : ((unitStep false).setWidth 3).toNat = 7 := rfl
    rw [if_neg (by decide)] at h
    rw [BitVec.toNat_add, hstep]
    omega
  · have hstep : ((unitStep true).setWidth 3).toNat = 1 := rfl
    rw [if_pos rfl] at h
    rw [BitVec.toNat_add, hstep]
    omega

/-- The eight directions with their steps (30 R123). -/
def directions : List (BitVec 3 × Int × Int) :=
  [(0#3, (1 : Int), (0 : Int)), (1#3, 1, -1), (2#3, 0, -1), (3#3, -1, -1), (4#3, -1, 0), (5#3, -1, 1), (6#3, 0, 1),
    (7#3, 1, 1)]

theorem radialStep_eq {c : Half} {d : BitVec 3} {dx dy : Int} (hrow : (d, dx, dy) ∈ directions)
    (hd : c.extractLsb' 5 3 = d) : radialStep c = (BitVec.ofInt 16 dx, BitVec.ofInt 16 dy) := by
  unfold radialStep
  rw [hd]
  simp only [directions, List.mem_cons, List.not_mem_nil, or_false, Prod.mk.injEq] at hrow
  rcases hrow with ⟨rfl, rfl, rfl⟩ | ⟨rfl, rfl, rfl⟩ | ⟨rfl, rfl, rfl⟩ | ⟨rfl, rfl, rfl⟩ | ⟨rfl, rfl, rfl⟩ |
    ⟨rfl, rfl, rfl⟩ | ⟨rfl, rfl, rfl⟩ | ⟨rfl, rfl, rfl⟩ <;> rfl

/-- Every value of bits 7:5 is a direction of the list. -/
theorem exists_direction (d : BitVec 3) : ∃ p, (d, p) ∈ directions := by
  have hall : ∀ d : BitVec 3, d ∈ directions.map Prod.fst := by decide
  obtain ⟨⟨d, p⟩, hmem, rfl⟩ := List.mem_map.1 (hall d)
  exact ⟨p, hmem⟩

/-! ## The move of each class -/

/-- Position and error term of a Line after a step (44 R302, R303). -/
def lineMove (e : Ex) : Half × Half × Half :=
  if radial e.cmd = true then (e.x + (radialStep e.cmd).1, e.y + (radialStep e.cmd).2, e.err)
  else if (e.maj.toNat : Int) ≤ e.err.toInt then (e.x + xStep e.cmd, e.y + yStep e.cmd, e.err + e.dia)
  else if yMajor e.cmd = true then (e.x, e.y + yStep e.cmd, e.err + e.ax)
  else (e.x + xStep e.cmd, e.y, e.err + e.ax)

theorem lineMove_radial {e : Ex} (h : radial e.cmd = true) :
    lineMove e = (e.x + (radialStep e.cmd).1, e.y + (radialStep e.cmd).2, e.err) := if_pos h

theorem lineMove_diagonal {e : Ex} (h : radial e.cmd = false) (herr : (e.maj.toNat : Int) ≤ e.err.toInt) :
    lineMove e = (e.x + xStep e.cmd, e.y + yStep e.cmd, e.err + e.dia) :=
  (if_neg (ne_true_of_eq_false h)).trans (if_pos herr)

theorem lineMove_axial {e : Ex} (h : radial e.cmd = false) (herr : e.err.toInt < (e.maj.toNat : Int)) :
    lineMove e = if yMajor e.cmd = true then (e.x, e.y + yStep e.cmd, e.err + e.ax)
      else (e.x + xStep e.cmd, e.y, e.err + e.ax) :=
  (if_neg (ne_true_of_eq_false h)).trans (if_neg (Int.not_le.2 herr))

/-- Either step of a Line moves it (44 R302, R303). -/
theorem lineStep_eq (e : Ex) :
    (if radial e.cmd = true then stepRadial e else stepBresenham e) =
      { e with x := (lineMove e).1, y := (lineMove e).2.1, err := (lineMove e).2.2 } := by
  by_cases hr : radial e.cmd = true
  · rw [if_pos hr, lineMove_radial hr]
    rfl
  · have hr' : radial e.cmd = false := eq_false_of_ne_true hr
    rw [if_neg hr]
    by_cases hd : (e.maj.toNat : Int) ≤ e.err.toInt
    · rw [lineMove_diagonal hr' hd]
      by_cases hy : yMajor e.cmd = true <;> simp [stepBresenham, hd, hy]
    · rw [lineMove_axial hr' (Int.not_le.1 hd)]
      by_cases hy : yMajor e.cmd = true <;> simp [stepBresenham, hd, hy]

/-- A Line's step moves it, and ends it with its last pixel (44 R301). -/
theorem advance_line {e : Ex} (hc : e.cls = .line) :
    advance e = ({ e with x := (lineMove e).1, y := (lineMove e).2.1, err := (lineMove e).2.2, left := e.left - 1 },
      if e.left - 1 = 0 then .done else .cont) := by
  have hline : advance e = advanceLine e := by rw [advance, hc]
  rw [hline]
  unfold advanceLine
  rw [lineStep_eq]

/-- What follows a row's last pixel (44 R311, R321, R331). -/
def rowEvent (e : Ex) : Event := if e.rows - 1 < 0 then .done else .rowEnd

section AreaSteps

variable {e : Ex}

/-- A Rectangle Fill inside a row (44 R311). -/
theorem advance_rect_in (hc : e.cls = .rect) (hl : 1 < e.left) :
    advance e = ({ e with x := e.x + xStep e.cmd, left := e.left - 1 }, .cont) := by
  unfold advance advanceRect
  rw [hc]
  exact if_pos (Nat.sub_pos_of_lt hl)

/-- A Rectangle Fill at the last pixel of a row (44 R311). -/
theorem advance_rect_end (hc : e.cls = .rect) (hl : e.left = 1) :
    advance e = ({ e with x := e.x0, y := e.y + yStep e.cmd, left := e.w.toNat, rows := e.rows - 1 }, rowEvent e) := by
  unfold advance advanceRect
  rw [hc]
  exact if_neg (show ¬ 0 < e.left - 1 by omega)

/-- A BitBlt inside a row (44 R321). -/
theorem advance_blit_in (hc : e.cls = .blit) (hl : 1 < e.left) :
    advance e = ({ e with x := e.x + xStep e.cmd, sx := e.sx + xStep e.cmd, left := e.left - 1 }, .cont) := by
  unfold advance advanceBlit
  rw [hc]
  exact if_pos (Nat.sub_pos_of_lt hl)

/-- A BitBlt at the last pixel of a row (44 R321). -/
theorem advance_blit_end (hc : e.cls = .blit) (hl : e.left = 1) :
    advance e = ({ e with
      x := e.x0, sx := e.sx0, y := e.y + yStep e.cmd, sy := e.sy + yStep e.cmd, left := e.w.toNat,
      rows := e.rows - 1 }, rowEvent e) := by
  unfold advance advanceBlit
  rw [hc]
  exact if_neg (show ¬ 0 < e.left - 1 by omega)

/-- A Pattern Fill inside a row (44 R331). -/
theorem advance_pat_in (hc : e.cls = .pat) (hl : 1 < e.left) :
    advance e = ({ e with x := e.x + xStep e.cmd, px := e.px + (xStep e.cmd).setWidth 3, left := e.left - 1 },
      .cont) := by
  unfold advance advancePat
  rw [hc]
  exact if_pos (Nat.sub_pos_of_lt hl)

/-- A Pattern Fill at the last pixel of a row (44 R331). -/
theorem advance_pat_end (hc : e.cls = .pat) (hl : e.left = 1) :
    advance e = ({ e with
      x := e.x0, px := e.px0, y := e.y + yStep e.cmd, py := e.py + (yStep e.cmd).setWidth 3, left := e.w.toNat,
      rows := e.rows - 1 }, rowEvent e) := by
  unfold advance advancePat
  rw [hc]
  exact if_neg (show ¬ 0 < e.left - 1 by omega)

end AreaSteps

/-! ## STEP -/

theorem sourceAddr_none {p : Params} {e : Ex} (hc : e.cls = .line ∨ e.cls = .rect) : sourceAddr p e = none := by
  unfold sourceAddr
  rcases hc with hc | hc <;> rw [hc]

theorem sourceAddr_blit {p : Params} {e : Ex} (hc : e.cls = .blit) :
    sourceAddr p e = some (pixAddr p e.sx e.sy) := by
  unfold sourceAddr
  rw [hc]

theorem sourceAddr_pat {p : Params} {e : Ex} (hc : e.cls = .pat) :
    sourceAddr p e = some (pixAddr p (BitVec.ofInt 16 (e.tx.toInt + (e.px.toNat : Int)))
      (BitVec.ofInt 16 (e.ty.toInt + (e.py.toNat : Int)))) := by
  unfold sourceAddr
  rw [hc, ← add_phase, ← add_phase]

/-- STEP from the move of its class and the address its class reads (44 R301, R311, R321, R331). -/
theorem engineStep_eq {s : State} {item : Item} {e : Ex} {ev : Event} {src : Option Nat}
    (hmove : advance s.ex = (e, ev)) (hsrc : sourceAddr s.params s.ex = src) :
    engineStep item s = ({ s.pixel s.ex.x s.ex.y item src with ex := e }, ev) := by
  unfold engineStep
  rw [hmove, hsrc]
  rfl

/-- Settles O47: the move of the class, with its coordinates as integers, and the address the class reads. -/
theorem stepPlotsThenAdvances : Obligations.StepPlotsThenAdvances := by
  rintro s item xs ys addr rfl rfl haddr hleft last rfl
  have haddr : addr = pixAddr s.params := by
    funext x y
    exact (haddr x y).trans (Nat.mul_comm _ _)
  subst haddr
  refine ⟨fun hc x y err hradial hdiag hax => ?line, fun hc => ?rect, fun hc => ?blit,
    fun hc px py hpx hpy tile htile => ?pat⟩
  case line =>
    have hmove : lineMove s.ex = (x, y, err) := by
      cases hr : s.ex.cmd.getLsbD 3 with
      | true =>
        obtain ⟨⟨dx, dy⟩, hrow⟩ := exists_direction (s.ex.cmd.extractLsb' 5 3)
        obtain ⟨rfl, rfl, rfl⟩ := hradial _ dx dy hrow hr rfl
        rw [lineMove_radial hr, radialStep_eq hrow rfl, add_ofInt, add_ofInt]
      | false =>
        rcases lt_or_ge s.ex.err.toInt s.ex.maj.toNat with herr | herr
        · obtain ⟨rfl, rfl, rfl⟩ := hax hr herr
          rw [lineMove_axial hr herr, xStep, yStep, add_unitStep, add_unitStep, add_eq_ofInt]
          unfold yMajor
          split <;> rfl
        · obtain ⟨rfl, rfl, rfl⟩ := hdiag hr herr
          rw [lineMove_diagonal hr herr, xStep, yStep, add_unitStep, add_unitStep, add_eq_ofInt]
    have hlast : s.ex.left - 1 = 0 ↔ s.ex.left = 1 := by omega
    have hadv := advance_line hc
    rw [hmove] at hadv
    rw [engineStep_eq hadv (sourceAddr_none (.inl hc)), if_congr hlast rfl rfl]
  case rect =>
    rw [← add_unitStep, ← add_unitStep]
    exact ⟨fun hl => engineStep_eq (advance_rect_in hc hl) (sourceAddr_none (.inr hc)),
      fun hl => engineStep_eq (advance_rect_end hc hl) (sourceAddr_none (.inr hc))⟩
  case blit =>
    rw [← add_unitStep, ← add_unitStep, ← add_unitStep, ← add_unitStep]
    exact ⟨fun hl => engineStep_eq (advance_blit_in hc hl) (sourceAddr_blit hc),
      fun hl => engineStep_eq (advance_blit_end hc hl) (sourceAddr_blit hc)⟩
  case pat =>
    rw [← add_unitStep, ← add_unitStep, eq_phase_add_unitStep _ hpx, eq_phase_add_unitStep _ hpy, htile]
    exact ⟨fun hl => engineStep_eq (advance_pat_in hc hl) (sourceAddr_pat hc),
      fun hl => engineStep_eq (advance_pat_end hc hl) (sourceAddr_pat hc)⟩

end Sys2Proof.Machine

/-! # The resting values

What a primitive without feed, or with a zero extent, leaves in the registers (44 R284, R304, R312, R322, R332). -/

namespace Sys2Proof.Machine

open Sys2Proof

/-! ## Area primitives -/

theorem restY_eq_add_steps (c v : Half) (h : Slot12) : restY c v h = v + BitVec.ofNat 16 h.toNat * yStep c := by
  rw [restY_eq, yStep, add_steps]

/-- The position written back after whole rows: X at the row's start, Y moved by the rows (44 R295). -/
theorem areaAt_row (e : Ex) (j : Nat) :
    (areaAt e j 0).x = e.x0 ∧ (areaAt e j 0).y = e.y + BitVec.ofNat 16 j * yStep e.cmd ∧
      (e.cls = .blit → (areaAt e j 0).sx = e.sx0 ∧
        (areaAt e j 0).sy = e.sy + BitVec.ofNat 16 j * yStep e.cmd) := by
  refine ⟨?_, rfl, fun hc => ⟨?_, if_pos hc⟩⟩
  · simp [areaAt]
  · simp [areaAt, hc]

/-- A primitive that has run its rows writes back the resting values of ZERO-EXTENT (44 R284, R295). -/
theorem writebackRegs_rows (s : State) {cls : Cls} (c : Half) (hline : cls ≠ .line) :
    writebackRegs (areaAt (s.exAtStart cls c) s.regs.minAxisPcnt.toNat 0) (s.cleared c).regs =
      zeroExtentRegs (s.exAtStart cls c) (s.cleared c).regs := by
  obtain ⟨hcls, hcmd, -⟩ := exAtStart_fields s cls c
  obtain ⟨hx, hy, hsource⟩ := areaAt_row (s.exAtStart cls c) s.regs.minAxisPcnt.toNat
  have hcls' : (areaAt (s.exAtStart cls c) s.regs.minAxisPcnt.toNat 0).cls = cls := hcls
  have hmin : (s.cleared c).regs.minAxisPcnt = s.regs.minAxisPcnt := rfl
  unfold writebackRegs zeroExtentRegs
  rw [hcls, hcls', hcmd, hmin]
  simp only [restY_eq_add_steps, hx, hy, hcmd]
  cases cls with
  | line => exact absurd rfl hline
  | rect =>
    obtain ⟨-, hy0, hx0⟩ := rect_start s c
    rw [hx0, hy0]
    rfl
  | blit =>
    obtain ⟨⟨-, hy0, hx0⟩, -, hsy0, hsx0⟩ := blit_start s c
    obtain ⟨hsx, hsy⟩ := hsource hcls
    rw [hx0, hy0, hsx, hsy, hsx0, hsy0, hcmd]
    rfl
  | pat =>
    obtain ⟨⟨-, hy0, hx0⟩, -⟩ := pat_start s c
    rw [hx0, hy0]
    rfl

/-- An area primitive without feed, or with a zero extent: the registers take their resting values, and nothing else
but the picture, the dirty bits, the pipeline's variables and the execution state changes. -/
theorem commitCmd_area {s : State} {c : Half} {cls : Cls} (h : classOf c = some cls) (hline : cls ≠ .line)
    (hp : c.getLsbD 8 = false ∨ s.regs.majAxisPcnt = 0#12 ∨ s.regs.mf[0] = 0#12) :
    ∃ fb dirty pipe e,
      s.commitCmd c = { s with
        fb := fb, dirty := dirty, pipe := pipe, ex := e
        regs := zeroExtentRegs (s.exAtStart cls c) (s.cleared c).regs } ∧
      e.active = false ∧
      (s.regs.majAxisPcnt = 0#12 ∨ s.regs.mf[0] = 0#12 → fb = s.fb ∧ dirty = s.dirty) := by
  have hzero : extentOf cls s.regs = 0 ↔ s.regs.majAxisPcnt = 0#12 ∨ s.regs.mf[0] = 0#12 :=
    extentOf_eq_zero.trans (or_congr_right (and_iff_right hline))
  obtain ⟨fb, dirty, pipe, e, hcommit, hactive, hpicture⟩ := commitCmd_rest h (hp.imp_right hzero.2)
  refine ⟨fb, dirty, pipe, e, ?_, hactive, fun hz => hpicture (hzero.2 hz)⟩
  rw [hcommit]
  by_cases h0 : extentOf cls s.regs = 0
  · rw [if_pos h0]
  · rw [if_neg h0, area_end s cls c hline h0, writebackRegs_rows s c hline]

section RestingRegs

variable (s : State) (c : Half) (r : Regs)

/-- The resting values of a Rectangle Fill (44 R312). -/
theorem zeroExtentRegs_rect : zeroExtentRegs (s.exAtStart .rect c) r =
    { r with curY := BitVec.ofInt 16 (r.curY.toInt +
        (if c.getLsbD 7 = true then 1 else -1) * (r.mf[0].toNat : Int)) } := by
  obtain ⟨hcls, hcmd, -⟩ := exAtStart_fields s .rect c
  unfold zeroExtentRegs
  rw [hcls, hcmd]
  simp only [restY_eq, Regs.minAxisPcnt]

/-- The resting values of a BitBlt (44 R322). -/
theorem zeroExtentRegs_blit : zeroExtentRegs (s.exAtStart .blit c) r =
    { r with
      curY := BitVec.ofInt 16 (r.curY.toInt + (if c.getLsbD 7 = true then 1 else -1) * (r.mf[0].toNat : Int))
      destyAxstp := BitVec.ofInt 16 (r.destyAxstp.toInt +
        (if c.getLsbD 7 = true then 1 else -1) * (r.mf[0].toNat : Int)) } := by
  obtain ⟨hcls, hcmd, -⟩ := exAtStart_fields s .blit c
  unfold zeroExtentRegs
  rw [hcls, hcmd]
  simp only [restY_eq, Regs.minAxisPcnt]

/-- The resting values of a Pattern Fill (44 R332). -/
theorem zeroExtentRegs_pat : zeroExtentRegs (s.exAtStart .pat c) r =
    { r with destyAxstp := BitVec.ofInt 16 (r.destyAxstp.toInt +
        (if c.getLsbD 7 = true then 1 else -1) * (r.mf[0].toNat : Int)) } := by
  obtain ⟨hcls, hcmd, -⟩ := exAtStart_fields s .pat c
  unfold zeroExtentRegs
  rw [hcls, hcmd]
  simp only [restY_eq, Regs.minAxisPcnt]

end RestingRegs

/-- Settles O48: the run of its rows ends at the resting values of ZERO-EXTENT. -/
theorem rectangleRestingValues : Obligations.RectangleRestingValues := by
  rintro s lo c rfl hp
  obtain ⟨fb, dirty, pipe, e, hcommit, hrest⟩ := commitCmd_area (classOf_append 2#3 lo) (by decide) hp
  rw [zeroExtentRegs_rect] at hcommit
  exact ⟨fb, dirty, pipe, e, congrArg Host.Outcome.next hcommit, hrest⟩

/-- Settles O49, as O48, with the registers of either class. -/
theorem blitAndPatternRestingValues : Obligations.BlitAndPatternRestingValues := by
  refine fun s lo => ⟨?blit, ?pat⟩
  case blit =>
    rintro c rfl hp
    obtain ⟨fb, dirty, pipe, e, hcommit, hrest⟩ := commitCmd_area (classOf_append 6#3 lo) (by decide) hp
    rw [zeroExtentRegs_blit] at hcommit
    exact ⟨fb, dirty, pipe, e, congrArg Host.Outcome.next hcommit, hrest⟩
  case pat =>
    rintro c rfl hp
    obtain ⟨fb, dirty, pipe, e, hcommit, hrest⟩ := commitCmd_area (classOf_append 7#3 lo) (by decide) hp
    rw [zeroExtentRegs_pat] at hcommit
    exact ⟨fb, dirty, pipe, e, congrArg Host.Outcome.next hcommit, hrest⟩

/-! ## Lines -/

/-- A Line without feed, or of no pixels, whose steps are one move: it rests where the move, made once per pixel, leads
(44 R304). -/
theorem commitCmd_line {s : State} {c : Half} (hcls : classOf c = some .line)
    (hp : c.getLsbD 8 = false ∨ s.regs.majAxisPcnt = 0#12) (move : Half × Half × Half → Half × Half × Half)
    (hmove : ∀ e : Ex, e.cmd = c → e.maj = s.regs.majAxisPcnt → e.ax = s.regs.destyAxstp →
      e.dia = s.regs.destxDiastp → lineMove e = move (e.x, e.y, e.err))
    {x y err : Half}
    (hrest : (x, y, err) = move^[s.regs.majAxisPcnt.toNat] (s.regs.curX, s.regs.curY, s.regs.errTerm)) :
    ∃ (fb : Memory) (dirty : List Nat) (pipe : Pipe) (e : Ex),
      s.commitCmd c = { s with
        fb := fb, dirty := dirty, pipe := pipe, ex := e
        regs := { s.regs with cmd := c, stageCnt := 0, curX := x, curY := y, errTerm := err } } ∧
      e.active = false ∧ (s.regs.majAxisPcnt = 0#12 → fb = s.fb ∧ dirty = s.dirty) := by
  obtain ⟨hline, hcmd, -⟩ := exAtStart_fields s .line c
  obtain ⟨hx, hy, herr, hmaj, hax, hdia⟩ := line_start s c
  have hiter := advN_line_iterate move (s.exAtStart .line c) hline
    (fun e he hecmd hemaj heax hedia => by
      rw [advance_line he]
      exact hmove e (hecmd.trans hcmd) (hemaj.trans hmaj) (heax.trans hax) (hedia.trans hdia))
    s.regs.majAxisPcnt.toNat
  rw [hx, hy, herr, ← hrest, Prod.mk.injEq, Prod.mk.injEq] at hiter
  obtain ⟨hx', hy', herr'⟩ := hiter
  obtain ⟨fb, dirty, pipe, e, hcommit, hleaves⟩ := line_ex hcls hp
  rw [hx', hy', herr'] at hcommit
  exact ⟨fb, dirty, pipe, e, hcommit, hleaves⟩

/-- A Line by its own row, or by another row of its class, commits its word. -/
theorem lineRow_exec {lo : BitVec 13} {hi9 : BitVec 9} {l3 : BitVec 3} {i j : Instr} {c c' : Half}
    (hrow : (i, c) ∈ [(Instr.cmdLine lo, 1#3 ++ lo), (j, c')]) (hj : (j, c', Cls.line) ∈ primitiveRows lo hi9 l3)
    (s : State) : exec i s = .next (s.commitCmd c) ∧ classOf c = some .line := by
  simp only [List.mem_cons, List.not_mem_nil, or_false, Prod.mk.injEq] at hrow
  rcases hrow with ⟨rfl, rfl⟩ | ⟨rfl, rfl⟩
  · exact primitiveRow_exec (lo := lo) (hi9 := hi9) (l3 := l3) List.mem_cons_self s
  · exact primitiveRow_exec hj s

/-- A move by a fixed step that keeps the error term (44 R303). -/
def fixedMove (dx dy : Half) (p : Half × Half × Half) : Half × Half × Half := (p.1 + dx, p.2.1 + dy, p.2.2)

theorem fixedMove_iterate (dx dy x y err : Half) (n : Nat) :
    (fixedMove dx dy)^[n] (x, y, err) = (x + BitVec.ofNat 16 n * dx, y + BitVec.ofNat 16 n * dy, err) := by
  induction n with
  | zero => simp
  | succ n ih => rw [Function.iterate_succ_apply', ih, fixedMove, ofNat_succ_mul, ofNat_succ_mul]

/-- `n` steps of `d`, wrapped once (44 R288). -/
theorem add_ofNat_mul_ofInt (v : Half) (n : Nat) (d : Int) :
    v + BitVec.ofNat 16 n * BitVec.ofInt 16 d = BitVec.ofInt 16 (v.toInt + d * (n : Int)) := by
  rw [← add_ofInt, BitVec.ofInt_mul, BitVec.ofInt_natCast, BitVec.mul_comm]

/-- Settles O50: the moves of a radial Line are those of its direction. -/
theorem radialLineRestingValues : Obligations.RadialLineRestingValues := by
  intro s lo hi9 l3 i c hrow hradial hp d dx dy hdir hd
  obtain ⟨hexec, hcls⟩ := lineRow_exec (lo := lo) (hi9 := hi9) (l3 := l3) hrow (by simp [primitiveRows]) s
  have hstep := radialStep_eq hdir hd
  obtain ⟨fb, dirty, pipe, e, hcommit, hleaves⟩ :=
    commitCmd_line hcls hp (fixedMove (BitVec.ofInt 16 dx) (BitVec.ofInt 16 dy))
      (fun e hcmd _ _ _ => by
        subst hcmd
        rw [lineMove_radial hradial, hstep, fixedMove])
      (fixedMove_iterate _ _ _ _ _ _).symm
  rw [add_ofNat_mul_ofInt, add_ofNat_mul_ofInt] at hcommit
  exact ⟨fb, dirty, pipe, e, hexec.trans (congrArg _ hcommit), hleaves⟩

/-- Settles O51: the moves of a Bresenham Line are the statement's. -/
theorem bresenhamLineRestingValues : Obligations.BresenhamLineRestingValues := by
  rintro s lo hi9 l3 i c hrow hradial hp xs ys move rfl rfl hmove x y err hrest
  obtain ⟨hexec, hcls⟩ := lineRow_exec (lo := lo) (hi9 := hi9) (l3 := l3) hrow (by simp [primitiveRows]) s
  obtain ⟨fb, dirty, pipe, e, hcommit, hleaves⟩ :=
    commitCmd_line hcls hp move (fun e hcmd hmaj hax hdia => by
      rw [hmove, ← hcmd, ← hmaj, ← hax, ← hdia]
      exact if_neg (ne_true_of_eq_false (hcmd ▸ hradial))) hrest
  exact ⟨fb, dirty, pipe, e, hexec.trans (congrArg _ hcommit), hleaves⟩

end Sys2Proof.Machine

/-! # What a solid Rectangle Fill draws

Each pixel of it writes the foreground colour (43 R253, R257, R259); a run of it covers the pixels of its rows (44 R311);
two pixels that share a byte give it the same value (43 R266). -/

namespace Sys2Proof.Machine

open Sys2Proof

/-! ## Painting -/

/-- The byte of the foreground colour that belongs at a framebuffer address: pixels lie at multiples of their size. -/
def State.solidByte (s : State) (a : Nat) : Byte := byteOf s.regs.frgdColor (a % s.params.pb)

/-- From `s` to `t` the bytes of `P` take the foreground colour, and every other byte stays. -/
def paints (P : Nat → Prop) (s t : State) : Prop :=
  ∀ a, (P a → t.fb.read a = s.solidByte a) ∧ (¬ P a → t.fb.read a = s.fb.read a)

theorem paints.congr {P Q : Nat → Prop} {s t : State} (h : paints P s t) (hPQ : ∀ a, P a ↔ Q a) : paints Q s t :=
  fun a => ⟨fun hq => (h a).1 ((hPQ a).2 hq), fun hq => (h a).2 fun hp => hq ((hPQ a).1 hp)⟩

theorem paints_empty {P : Nat → Prop} {s t : State} (hfb : t.fb = s.fb) (hP : ∀ a, ¬ P a) : paints P s t :=
  fun a => ⟨fun h => absurd h (hP a), fun _ => by rw [hfb]⟩

/-- Painting over a painted byte gives it the same value (43 R266). -/
theorem paints.trans {P Q : Nat → Prop} {s t u : State} (h : paints P s t) (h' : paints Q t u)
    (hcolor : t.solidByte = s.solidByte) : paints (fun a => P a ∨ Q a) s u := by
  intro a
  obtain ⟨hin, hout⟩ := h a
  obtain ⟨hin', hout'⟩ := h' a
  rw [hcolor] at hin'
  by_cases hq : Q a
  · exact ⟨fun _ => hin' hq, fun hno => absurd (.inr hq) hno⟩
  · exact ⟨fun hp => (hout' hq).trans (hin (hp.resolve_right hq)),
      fun hno => (hout' hq).trans (hout fun hp => hno (.inl hp))⟩

/-- A byte's place in its pixel (20 R74). -/
theorem pixAddr_add_mod_pb {p : Params} {x y : Half} {k : Nat} (hk : k < p.pb) : (pixAddr p x y + k) % p.pb = k := by
  rw [pixAddr, Nat.mul_add_mod_self_right, Nat.mod_eq_of_lt hk]

/-- The pixel mask keeps the bytes of the pixel (00 R11). -/
theorem byteOf_and_pixMask {v : Word} {pb k : Nat} (hk : k < pb) : byteOf (v &&& pixMask pb) k = byteOf v k := by
  apply BitVec.eq_of_getLsbD_eq
  intro i hi
  rw [byteOf, byteOf, BitVec.getLsbD_extractLsb', BitVec.getLsbD_extractLsb', BitVec.getLsbD_and]
  congr 1
  by_cases h32 : 8 * k + i < 32
  · rw [pixMask, pixMask_bit_eq _ _ h32, decide_eq_true (by omega), Bool.and_true]
  · rw [BitVec.getLsbD_of_ge v _ (by omega), Bool.false_and]

/-! ## One pixel of a solid Rectangle Fill -/

/-- A Rectangle Fill that copies the foreground colour through an open write mask with no compare. -/
structure SolidFill (s : State) : Prop where
  params : validParams s.params
  wf : Memory.wf s.fb
  cls : s.ex.cls = .rect
  feed : s.ex.feed = .none
  srcSel : srcSel s.regs.frgdMix = 1#2
  mixCode : mixCode s.regs.frgdMix = 7#4
  wrtMask : s.regs.wrtMask = 0xFFFFFFFF#32
  cmpMode : s.regs.cmpMode = 0#2

/-- Without a feed and without a framebuffer source every pixel takes the foreground mix (43 R254). -/
theorem selector_foreground {e : Ex} (hfeed : e.feed = .none) (hcls : e.cls = .rect) (item : Item) (vsrc : Word) :
    selector e.ms e item vsrc = true := by
  unfold selector
  rw [hfeed, hcls]
  split <;> rfl

section SolidFill

variable {s : State} (h : SolidFill s)

include h

theorem SolidFill.mix (item : Item) (src : Option Nat) : (s.pipeFront item src).mix = s.regs.frgdMix := by
  rw [pipeFront_mix, selector_foreground h.feed h.cls]
  exact if_pos rfl

theorem SolidFill.src (item : Item) (src : Option Nat) :
    (s.pipeFront item src).src = s.regs.frgdColor &&& pixMask s.params.pb := by
  have hsource : (s.pipeFront item src).src =
      source (Machine.srcSel (s.pipeFront item src).mix) s.ex s.regs item (s.srcRead src) &&&
        pixMask s.params.pb := rfl
  rw [hsource, h.mix, h.srcSel]
  rfl

/-- The value written: the foreground colour inside the pixel (43 R250, R259, R260). -/
theorem SolidFill.out (item : Item) (src : Option Nat) (d : Word) :
    maskMerge s.params.pb s.regs.wrtMask
      (mixFn (Machine.mixCode (s.pipeFront item src).mix) (s.pipeFront item src).src d &&& pixMask s.params.pb) d =
      s.regs.frgdColor &&& pixMask s.params.pb := by
  have hcopy : ∀ v : Word, mixFn 7#4 v d = v := fun _ => rfl
  have hopen : (0xFFFFFFFF#32) = BitVec.allOnes 32 := rfl
  rw [h.mix, h.mixCode, h.src, hcopy, h.wrtMask, maskMerge, hopen, BitVec.and_allOnes, BitVec.not_allOnes,
    BitVec.and_zero, BitVec.or_zero]
  simp only [BitVec.and_assoc, BitVec.and_self]

/-- A pixel of a solid fill paints its bytes when it is inside the clip, and else nothing (43 R257). -/
theorem SolidFill.pixel_paints (x y : Half) (item : Item) (src : Option Nat) :
    paints (fun a => s.regs.inClip x y = true ∧ pixelBytes s.params x y a) s (s.pixel x y item src) := by
  by_cases hclip : s.regs.inClip x y = true
  · have hpass : cmpPass s.regs.cmpMode s.params.pb s.regs.colorCmp (s.pipeFront item src).src = true := by
      rw [h.cmpMode]
      rfl
    obtain ⟨hfb, -⟩ := pixel_open ⟨hclip, hpass⟩
    rw [h.out] at hfb
    refine fun a => ⟨fun ⟨_, k, hk, ha⟩ => ?_, fun hno => ?_⟩
    · rw [pixAddr_mod h.params.config x y hk] at ha
      subst ha
      rw [hfb, read_pixel_write h.params.config h.wf x y _ hk, State.solidByte, pixAddr_add_mod_pb hk,
        byteOf_and_pixMask hk]
    · rw [hfb]
      exact read_scatterLE_other h.wf _ a fun i hi he => hno ⟨hclip, i, hi, he⟩
  · exact paints_empty (pixel_closed fun hopen => hclip hopen.1).1 fun a ha => hclip ha.1

theorem SolidFill.step (item : Item) : SolidFill (engineStep item s).1 := by
  obtain ⟨hcls, -, hfeed, -⟩ := advance_keeps s.ex
  have hregs := engineStep_fst_regs item s
  exact ⟨engineStep_fst_params item s ▸ h.params, (engineStep_run item s).fb_wf h.wf, hcls.trans h.cls,
    hfeed.trans h.feed, hregs ▸ h.srcSel, hregs ▸ h.mixCode, hregs ▸ h.wrtMask, hregs ▸ h.cmpMode⟩

end SolidFill

/-! ## A run -/

/-- A run that does not end with its first STEP goes on from the state after it (44 R285). -/
theorem runSteps_succ {n : Nat} {s : State} (h : n = 0 ∨ (advance s.ex).2 ≠ .done) :
    runSteps (n + 1) s = runSteps n (engineStep .none s).1 := by
  have hev := engineStep_ev .none s
  rw [runSteps]
  split
  · next t heq =>
    rw [heq] at hev
    obtain rfl : n = 0 := h.resolve_right fun hne => hne hev.symm
    rw [heq]
    rfl
  · next heq => rw [heq]

/-- A run of a solid fill paints the pixels at its iteration states, where they are inside the clip. -/
theorem runSteps_paints {s : State} (h : SolidFill s) (n : Nat)
    (hdone : ∀ k, k + 1 < n → (advance (advN k s.ex)).2 ≠ .done) :
    paints (fun a => ∃ k < n, s.regs.inClip (advN k s.ex).x (advN k s.ex).y = true ∧
      pixelBytes s.params (advN k s.ex).x (advN k s.ex).y a) s (runSteps n s) := by
  induction n generalizing s with
  | zero => exact paints_empty rfl fun a ⟨k, hk, _⟩ => Nat.not_lt_zero k hk
  | succ n ih =>
    have hfirst : n = 0 ∨ (advance s.ex).2 ≠ .done := (Nat.eq_zero_or_pos n).imp_right fun hn => hdone 0 (by omega)
    have hregs := engineStep_fst_regs .none s
    have hparams := engineStep_fst_params .none s
    have hcolor : (engineStep .none s).1.solidByte = s.solidByte := by
      funext a
      rw [State.solidByte, hregs, hparams, State.solidByte]
    have hhead := h.pixel_paints s.ex.x s.ex.y .none (sourceAddr s.params s.ex)
    have htail := ih (h.step .none) fun k hk => hdone (k + 1) (by omega)
    rw [hregs, hparams] at htail
    rw [runSteps_succ hfirst]
    refine (paints.trans (t := (engineStep .none s).1) hhead htail hcolor).congr fun a => ⟨?_, ?_⟩
    · rintro (hpix | ⟨k, hk, hpix⟩)
      · exact ⟨0, Nat.succ_pos n, hpix⟩
      · exact ⟨k + 1, Nat.succ_lt_succ hk, hpix⟩
    · rintro ⟨k, hk, hpix⟩
      cases k with
      | zero => exact .inl hpix
      | succ k => exact .inr ⟨k, Nat.lt_of_succ_lt_succ hk, hpix⟩

/-! ## The pixels of the rectangle -/

/-- A pixel of the rectangle that a command word draws (44 R310, R311). -/
def State.rectPixel (s : State) (c x y : Half) : Prop :=
  ∃ j < s.regs.majAxisPcnt.toNat, ∃ k < s.regs.mf[0].toNat,
    x = BitVec.ofInt 16 (s.regs.curX.toInt + (if c.getLsbD 5 = true then 1 else -1) * (j : Int)) ∧
    y = BitVec.ofInt 16 (s.regs.curY.toInt + (if c.getLsbD 7 = true then 1 else -1) * (k : Int))

/-- The bytes of the rectangle's pixels inside the clip. -/
def State.rectBytes (s : State) (c : Half) (a : Nat) : Prop :=
  ∃ x y, s.rectPixel c x y ∧ s.regs.inClip x y = true ∧ pixelBytes s.params x y a

/-- The iteration visits the rectangle's pixels (44 R283, R311). -/
theorem rectPixel_iff_visited (s : State) (c x y : Half) :
    s.rectPixel c x y ↔ ∃ n < extentOf .rect s.regs,
      x = (advN n (s.exAtStart .rect c)).x ∧ y = (advN n (s.exAtStart .rect c)).y := by
  obtain ⟨-, hcmd, -⟩ := exAtStart_fields s .rect c
  obtain ⟨hstart, hw, -⟩ := exAtStart_area s .rect c (by decide)
  obtain ⟨-, hy0, hx0⟩ := rect_start s c
  have hpos : ∀ j < s.regs.majAxisPcnt.toNat, ∀ k,
      (advN (k * s.regs.majAxisPcnt.toNat + j) (s.exAtStart .rect c)).x =
        BitVec.ofInt 16 (s.regs.curX.toInt + (if c.getLsbD 5 = true then 1 else -1) * (j : Int)) ∧
      (advN (k * s.regs.majAxisPcnt.toNat + j) (s.exAtStart .rect c)).y =
        BitVec.ofInt 16 (s.regs.curY.toInt + (if c.getLsbD 7 = true then 1 else -1) * (k : Int)) := by
    intro j hj k
    rw [← hw] at hj ⊢
    rw [advN_area hstart k j hj, ← add_steps, ← add_steps, ← hx0, ← hy0]
    simp only [areaAt, hcmd, xStep, yStep, and_self]
  constructor
  · rintro ⟨j, hj, k, hk, rfl, rfl⟩
    obtain ⟨hx, hy⟩ := hpos j hj k
    refine ⟨_, ?_, hx.symm, hy.symm⟩
    calc k * s.regs.majAxisPcnt.toNat + j
        < (k + 1) * s.regs.majAxisPcnt.toNat := by rw [Nat.succ_mul]; omega
      _ ≤ s.regs.mf[0].toNat * s.regs.majAxisPcnt.toNat := Nat.mul_le_mul_right _ hk
      _ = extentOf .rect s.regs := Nat.mul_comm _ _
  · rintro ⟨n, hn, rfl, rfl⟩
    have hwidth : 0 < s.regs.majAxisPcnt.toNat := Nat.pos_of_mul_pos_right (Nat.zero_lt_of_lt hn)
    obtain ⟨hx, hy⟩ := hpos _ (Nat.mod_lt n hwidth) (n / s.regs.majAxisPcnt.toNat)
    rw [Nat.div_add_mod'] at hx hy
    exact ⟨_, Nat.mod_lt n hwidth, _, Nat.div_lt_of_lt_mul hn, hx, hy⟩

theorem rectBytes_iff_visited (s : State) (c : Half) (a : Nat) :
    s.rectBytes c a ↔ ∃ n < extentOf .rect s.regs,
      s.regs.inClip (advN n (s.exAtStart .rect c)).x (advN n (s.exAtStart .rect c)).y = true ∧
      pixelBytes s.params (advN n (s.exAtStart .rect c)).x (advN n (s.exAtStart .rect c)).y a := by
  simp only [State.rectBytes, rectPixel_iff_visited]
  constructor
  · rintro ⟨x, y, ⟨n, hn, rfl, rfl⟩, hpix⟩
    exact ⟨n, hn, hpix⟩
  · rintro ⟨n, hn, hpix⟩
    exact ⟨_, _, ⟨n, hn, rfl, rfl⟩, hpix⟩

/-- The state a Rectangle Fill runs from is a solid fill. -/
theorem solidFill_start {s : State} {c : Half} (hp : validParams s.params) (hwf : Memory.wf s.fb)
    (hfeed : c.getLsbD 8 = false) (hsrc : srcSel s.regs.frgdMix = 1#2) (hmix : mixCode s.regs.frgdMix = 7#4)
    (hmask : s.regs.wrtMask = 0xFFFFFFFF#32) (hcmp : s.regs.cmpMode = 0#2) :
    SolidFill ((s.cleared c).withEx (s.exAtStart .rect c)) := by
  obtain ⟨hcls, -, -, -, hnone⟩ := exAtStart_fields s .rect c
  exact ⟨hp, hwf, hcls, hnone.2 hfeed, hsrc, hmix, hmask, hcmp⟩

/-- A solid Rectangle Fill paints the bytes of its pixels inside the clip. -/
theorem commitCmd_rect_paints {s : State} {c : Half} (hcls : classOf c = some .rect) (hfeed : pcData c = false)
    (hsolid : SolidFill ((s.cleared c).withEx (s.exAtStart .rect c))) :
    paints (s.rectBytes c) s (s.commitCmd c) := by
  rw [commitCmd_some hcls]
  by_cases h0 : extentOf .rect s.regs = 0
  · rw [if_pos h0]
    refine paints_empty rfl fun a ha => ?_
    obtain ⟨n, hn, -⟩ := (rectBytes_iff_visited s c a).1 ha
    exact Nat.not_lt_zero n (h0 ▸ hn)
  · rw [if_neg h0, if_pos hfeed]
    obtain ⟨hstart, hw, hrows⟩ := exAtStart_area s .rect c (by decide)
    have hextent : extentOf .rect s.regs = s.regs.minAxisPcnt.toNat * (s.exAtStart .rect c).w.toNat := by
      rw [hw]
      exact Nat.mul_comm _ _
    have hrun := runSteps_paints hsolid (extentOf .rect s.regs) fun k hk =>
      advance_area_not_done hstart _ hrows k (hextent ▸ hk)
    exact paints.congr hrun fun a => (rectBytes_iff_visited s c a).symm

/-- Settles O55: the commit paints the rectangle's bytes; a pixel's own bytes take the colour's bytes in order. -/
theorem rectangleFillDrawsItsPixels : Obligations.RectangleFillDrawsItsPixels := by
  rintro s lo c rfl hfeed hp hwf hsrc hmix hmask hcmp
  have hpaints := commitCmd_rect_paints (classOf_append 2#3 lo) hfeed
    (solidFill_start hp hwf hfeed hsrc hmix hmask hcmp)
  refine ⟨_, rfl, fun inRect hrect => ?_⟩
  have hinRect : ∀ x y, inRect x y ↔ s.rectPixel (2#3 ++ lo) x y ∧ s.regs.inClip x y = true := fun x y => by
    rw [hrect, Regs.inClip_iff]
    rfl
  refine ⟨fun x y hin k hk => ?_, fun a hout => ?_⟩
  · obtain ⟨hpix, hclip⟩ := (hinRect x y).1 hin
    have hbyte := (hpaints (pixAddr s.params x y + k)).1
      ⟨x, y, hpix, hclip, k, hk, (pixAddr_mod hp.config x y hk).symm⟩
    rwa [State.solidByte, pixAddr_add_mod_pb hk] at hbyte
  · refine (hpaints a).2 fun ⟨x, y, hpix, hclip, hbytes⟩ => ?_
    exact hout x y ((hinRect x y).2 ⟨hpix, hclip⟩) hbytes

end Sys2Proof.Machine

/-! # Status reads, waiting reads and the Host's calls

A waiting drained read; the reads that never wait, as one-byte reads of a target that is no other register than CMD;
what a status word says about the queue; WAIT-IDLE and REPORT-UTILIZATION in each position of the Host. -/

namespace Sys2Proof.Machine

open Sys2Proof

/-! ## A waiting drained read -/

section WaitingRead

variable {s : State} {a : Access}

/-- DRAINED-READ while this read waits looks at the queue and `stop` again (45 R352). -/
theorem execDrainedRead_waits (h : s.pstate = .waitDrain a) :
    execDrainedRead a s = .next (if s.drained then s.returnValue a else s) := if_pos h

theorem not_drained (hn : 0 < s.occupancy) (hstop : s.stop = false) : s.drained = false := by
  rw [← Bool.not_eq_true, s.drained_iff]
  rintro (hempty | hset)
  · exact Nat.ne_of_gt hn hempty
  · exact absurd (hstop.symm.trans hset) (by decide)

end WaitingRead

/-- Settles O24: the wait ends exactly where the queue is drained, with the value the read gives there. -/
theorem waitingReadReturnsWhenDrained : Obligations.WaitingReadReturnsWhenDrained := by
  intro s a hw
  have hexec : exec (.drainedRead a) s = .next (if s.drained then s.returnValue a else s) :=
    execDrainedRead_waits hw
  refine ⟨fun hdrained => ?returns, fun hn hstop => ?stays⟩
  case returns =>
    obtain ⟨hbytes, hlt⟩ := readValue_spec s a
    rw [if_pos (s.drained_iff.2 hdrained)] at hexec
    exact ⟨s.readValue a, hbytes, hlt, hexec⟩
  case stays =>
    rw [hexec, not_drained hn hstop]
    rfl

/-! ## The reads that never wait -/

section SynchronousReads

variable {s : State}

/-- The one-byte read of an address reads that address. -/
theorem byteAccess_spec {a : ByteAddr} (h : addrFits a) :
    ∃ sp o, byteAccess a = ⟨sp, o, .w1⟩ ∧ byteAddrAt sp o 0 = a := by
  cases a with
  | mapped n => exact ⟨.mapped, BitVec.ofNat 24 n, rfl, congrArg ByteAddr.mapped (Nat.mod_eq_of_lt h)⟩
  | port p =>
    refine ⟨.port, p.setWidth 24, rfl, congrArg ByteAddr.port ?_⟩
    rw [setWidth_port_field]
    exact BitVec.add_zero p

/-- A one-byte read is synchronous iff its target is (30 R115). -/
theorem isSynchronous_w1 (sp : BusSpace) (o : BitVec 24) :
    (⟨sp, o, .w1⟩ : Access).isSynchronous = (decodeAddr (byteAddrAt sp o 0)).isSynchronous := Bool.and_true _

/-- The one-byte read of a synchronous target returns its byte at once and wakes an idle Consumer (45 R350). -/
theorem issueRead_synchronousByte (hp : s.pstate = .ready) (hc : s.cstate ≠ .stopped) {a : ByteAddr} {t : Target}
    (ha : addrFits a) (hdecode : decodeAddr a = t) (ht : t.isSynchronous = true) :
    s.issueRead (byteAccess a) = .next { s with
      wakePending := s.wakePending || decide (s.cstate = .idle)
      out := { s.out with busData := some ((s.readByte t).setWidth 32) } } := by
  obtain ⟨sp, o, haccess, rfl⟩ := byteAccess_spec ha
  subst hdecode
  rw [haccess, issueRead_sync hp hc ((isSynchronous_w1 sp o).trans ht), readStatus_ready hp, readValue_w1]

/-- GP_STAT as a number (30 R136). -/
theorem gpStat_toNat (s : State) : s.gpStat.toNat = (if s.occupancy = s.params.qcap then 0xFF else 0) +
    (if s.busy = true ∨ 0 < s.occupancy then 0x200 else 0) := by
  rw [gpStat_eq]
  split_ifs <;> rfl

/-- A byte of the CMD slot as a number (45 R351). -/
theorem readByte_cmd_number (s : State) (lane : BitVec 2) :
    (s.readByte (.reg .cmd lane)).setWidth 32 = BitVec.ofNat 32 (s.gpStat.toNat / 2 ^ (8 * lane.toNat) % 256) := by
  have hword : (s.regBits .cmd).toNat = s.gpStat.toNat := BitVec.toNat_setWidth_of_le (by decide)
  rw [← hword]
  exact setWidth_byteOf (s.regBits .cmd) lane.toNat

/-- The window row reads the byte at its mapped offset (30 R113). -/
theorem exec_rPixTransWindow (s : State) (o : BitVec 15) :
    exec (.rPixTransWindow o) s = s.issueRead (byteAccess (.mapped o.toNat)) := by
  show s.issueRead ⟨.mapped, o.setWidth 24, .w1⟩ = s.issueRead ⟨.mapped, BitVec.ofNat 24 o.toNat, .w1⟩
  rw [BitVec.ofNat_toNat]

end SynchronousReads

/-- Settles O26: the four rows are one-byte reads of a CMD lane, of pixel bytes and of NONE. -/
theorem synchronousReadsReturnAtOnce : Obligations.SynchronousReadsReturnAtOnce := by
  intro s sp lane o a hp hc ha i byte hrow
  obtain ⟨hnone, hfits⟩ := (noneAddrWf_iff a).1 ha
  rw [← gpStat_toNat] at hrow
  simp only [List.mem_cons, List.not_mem_nil, or_false, Prod.mk.injEq] at hrow
  rcases hrow with ⟨rfl, rfl⟩ | ⟨rfl, rfl⟩ | ⟨rfl, rfl⟩ | ⟨rfl, rfl⟩
  · rw [← readByte_cmd_number]
    exact issueRead_synchronousByte hp hc (addrFits_lane sp _) (decodeAddr_lane .cmd sp lane) rfl
  · exact issueRead_synchronousByte hp hc (addrFits_lane sp _) (decodeAddr_pixTrans sp lane) rfl
  · rw [exec_rPixTransWindow]
    exact issueRead_synchronousByte hp hc (addrFits_window o) (decodeMapped_window o.isLt) rfl
  · exact issueRead_synchronousByte hp hc hfits hnone rfl

/-! ## Polling -/

section Polling

variable {s : State}

/-- The 16-bit read of the CMD slot's port: a program's status read (45 R357). -/
def statusAccess : Access := ⟨.port, 0x009AE8#24, .w2⟩

theorem statusAccess_sync : statusAccess.isSynchronous = true := by decide

theorem execIn16_status (s : State) : exec (.in16 0x9AE8#16) s = s.issueRead statusAccess := rfl

/-- The bytes of a status word are the two bytes of GP_STAT. -/
theorem byteOf_statusWord (s : State) {lane : BitVec 2} (h : lane.toNat < 2) :
    byteOf (s.readValue statusAccess) lane.toNat = s.gpStat.extractLsb' (8 * lane.toNat) 8 := by
  have hdecode : ∀ l : BitVec 2, l.toNat < 2 →
      decodeAddr (byteAddrAt statusAccess.space statusAccess.addr l.toNat) = .reg .cmd l := by decide
  rw [(readValue_spec s statusAccess).1 _ h, hdecode lane h, readByte_cmd]

/-- Bits 7:0 of a status word tell whether the queue is full (45 R351). -/
theorem statusWord_low (s : State) : (s.readValue statusAccess).extractLsb' 0 8 =
    (if s.occupancy = s.params.qcap then 0xFF#8 else 0x00#8) := by
  obtain ⟨hfull, -⟩ := gpStat_fields s
  exact (byteOf_statusWord s (lane := 0#2) (by decide)).trans hfull

/-- Bit 9 of a status word tells whether the block works (45 R351). -/
theorem statusWord_working (s : State) :
    (s.readValue statusAccess).getLsbD 9 = decide (s.busy = true ∨ 0 < s.occupancy) := by
  obtain ⟨-, hwork, -⟩ := gpStat_fields s
  have hbyte := congrArg (·.getLsbD 1) (byteOf_statusWord s (lane := 1#2) (by decide))
  simp only [byteOf, BitVec.getLsbD_extractLsb'] at hbyte
  exact hbyte.trans hwork

/-- A write access issued on a full queue begins a hold (40 R152, 41 R172). -/
theorem issueWrite_full (hp : s.pstate = .ready) (hc : s.cstate ≠ .stopped)
    (hfull : s.queue.wr - s.queue.rd = s.params.qcap) (sp : BusSpace) (w : Width) (off : BitVec 24) (v : Word) :
    s.issueWrite sp w off v =
      .next { s with wakePending := true, pstate := .waitRoom true (makeEntries sp w off v) } := by
  rw [issueWrite_ready hp hc]
  cases hmake : makeEntries sp w off v with
  | nil => exact absurd hmake (makeEntries_len _ _ _ _).1
  | cons e rest => exact enqueueFirst_full hfull

end Polling

/-- Settles O28: the status read answers with GP_STAT and moves neither cursor. -/
theorem statusPollingIsSound : Obligations.StatusPollingIsSound := by
  intro s _ hs hp hc
  have hexec : exec (.in16 0x9AE8#16) s = .next (s.readStatus statusAccess) := by
    rw [execIn16_status, issueRead_sync hp hc statusAccess_sync]
  refine ⟨_, s.readValue statusAccess, hexec, rfl, fun hidle => ?idle, fun hbits p x => ?full, fun hbits => ?room⟩
  case idle =>
    rw [statusWord_working, decide_eq_false_iff_not, not_or] at hidle
    obtain ⟨-, hempty⟩ := hidle
    exact (occupancy_eq_zero_iff hs).1 (Nat.eq_zero_of_not_pos hempty)
  case full =>
    have hfull : s.occupancy = s.params.qcap := by
      by_contra hne
      rw [statusWord_low, if_neg hne] at hbits
      exact absurd hbits (by decide)
    have hhold := issueWrite_full (s := s.readStatus statusAccess) rfl hc hfull .port .w1 (p.setWidth 24) x
    exact ⟨_, _, hhold, rfl, rfl⟩
  case room =>
    have hne : s.occupancy ≠ s.params.qcap := by
      intro hfull
      rw [statusWord_low, if_pos hfull] at hbits
      exact absurd hbits (by decide)
    obtain ⟨-, -, hcap, -⟩ := hs
    exact Nat.lt_of_le_of_ne hcap hne

/-! ## WAIT-IDLE and REPORT-UTILIZATION -/

section HostCalls

variable {s : State}

/-- WAIT-IDLE as called: it wakes the Consumer for a queue that is not empty, then returns or holds (45 R354). -/
theorem execWaitIdle_ready (h : s.hstate = .ready) :
    execWaitIdle s = .next (if s.idleForHost then s.withWake (s.wakePending || decide (0 < s.occupancy))
      else (s.withWake (s.wakePending || decide (0 < s.occupancy))).withHState .waitIdle) := by
  unfold execWaitIdle; rw [h]; rfl

theorem execWaitIdle_waitIdle (h : s.hstate = .waitIdle) :
    execWaitIdle s = .next (if s.idleForHost then s.withHState .ready else s) := by
  unfold execWaitIdle; rw [h]

theorem execWaitIdle_waitBoth (h : s.hstate = .waitBoth) :
    execWaitIdle s = .next (if s.idleForHost then s.withHState .waitStopped else s) := by
  unfold execWaitIdle; rw [h]

theorem execWaitIdle_waitStopped (h : s.hstate = .waitStopped) : execWaitIdle s = .next s := by
  unfold execWaitIdle; rw [h]

theorem execReportUtilization_ready (h : s.hstate = .ready) :
    execReportUtilization s = .next ((s.withOut { s.out with
      utilization := some (Config.utilization s.freeCtr) }).withFreeCtr (s.freeCtr + 1)) := by
  unfold execReportUtilization; rw [h]

/-- A Host that holds has no REPORT-UTILIZATION (00 R14; log 20). -/
theorem execReportUtilization_held (h : s.hstate ≠ .ready) : execReportUtilization s = .next s := by
  unfold execReportUtilization
  cases hh : s.hstate with
  | ready => exact absurd hh h
  | waitIdle | waitStopped | waitBoth => rfl

end HostCalls

/-- Settles O31: the four positions of the Host, each with its condition met and not met. -/
theorem waitIdleHoldsUntilIdle : Obligations.WaitIdleHoldsUntilIdle := by
  intro s
  rw [← s.idleForHost_iff]
  refine ⟨fun h hidle => ?_, fun h hidle => ?_, fun h hidle => ?_, fun h hidle => ?_, fun h hidle => ?_,
    fun h hidle => ?_, execWaitIdle_waitStopped⟩
  · exact (execWaitIdle_ready h).trans (by rw [if_pos hidle]; rfl)
  · exact (execWaitIdle_ready h).trans (by rw [if_neg hidle]; rfl)
  · exact (execWaitIdle_waitIdle h).trans (by rw [if_pos hidle]; rfl)
  · exact (execWaitIdle_waitIdle h).trans (by rw [if_neg hidle])
  · exact (execWaitIdle_waitBoth h).trans (by rw [if_pos hidle]; rfl)
  · exact (execWaitIdle_waitBoth h).trans (by rw [if_neg hidle])

/-- Settles O32: from Ready the number is the free value, and in the other positions the state stays. -/
theorem reportUtilizationReturnsANumber : Obligations.ReportUtilizationReturnsANumber :=
  fun s => ⟨fun h => ⟨Config.utilization s.freeCtr, execReportUtilization_ready h⟩, execReportUtilization_held⟩

end Sys2Proof.Machine

/-! # Reset and reconfiguration

The values right after construction (70 R401; 10 R50); CONFIG with admitted values (70 R414); a command word with the
counts at their reset values (70 R402; 44 R284). -/

namespace Sys2Proof.Machine

open Sys2Proof

/-! ## Construction -/

/-- The multifunction bank is zero at reset (10 R42, R50). -/
theorem reset_mfAt (i : BitVec 4) : Regs.reset.mfAt i = 0#12 := Vector.getElem_replicate i.isLt

/-- The pixel stage is zero at reset (10 R40, R50). -/
theorem reset_stage (i : Fin 4) : Regs.reset.stage[i] = 0#8 := Vector.getElem_replicate i.isLt

/-- Settles O6: the slots, the multifunction bank and the stage by their lemmas; the other values, 23 of them between
the slots and the bank, are those that `State.construct`, `Regs.reset` and `Ex.reset` name. -/
theorem constructionSetsEveryValue : Obligations.ConstructionSetsEveryValue := by
  intro p picture pages s
  refine ⟨fun k _ => construct_slot p picture pages k, List.length_replicate, ?_⟩
  iterate 23 refine ⟨rfl, ?_⟩
  refine ⟨reset_mfAt, reset_stage, ?_⟩
  and_intros
  all_goals rfl

/-! ## CONFIG -/

/-- CONFIG on an idle block with values in the ranges is taken at once (70 R414). -/
theorem execConfig_ready {s : State} {pb pitch vb : Nat} (h : s.hstate = .ready) (hen : s.configEnabled = true)
    (hok : configOk pb pitch vb = true) : execConfig pb pitch vb s = .next (s.applyConfig pb pitch vb) := by
  unfold execConfig
  rw [h, hen, hok]
  rfl

/-- Free contents have the form of contents, whatever they are (log 10). -/
theorem freshVram_memoryOk {s : State} (hsize : 0 < s.params.vramBytes) (hpages : 0 < pageCount s.params) :
    memoryOk s.freshVram :=
  ⟨pictureOf_wf _ _, pictureOf_lt hsize _, dirtyOf_rising _ _, dirtyOf_lt hpages _⟩

/-- Settles O33: CONFIG's update as one record, with the contents kept or free by its size. -/
theorem configSetsTheParameters : Obligations.ConfigSetsTheParameters := by
  intro s pb pitch k hready hempty hdrain hpb hpitch hpitch' hk hk'
  have hok : configOk pb pitch (2 ^ k) = true :=
    (configOk_iff pb pitch (2 ^ k)).2 ⟨hpb, hpitch, hpitch', k, hk, hk', rfl⟩
  have hexec : exec (.config pb pitch (2 ^ k)) s = .next (s.applyConfig pb pitch (2 ^ k)) :=
    execConfig_ready hready (s.configEnabled_iff.2 ⟨hempty, hdrain⟩) hok
  obtain ⟨u, happly, hu⟩ := applyConfig_form s pb pitch (2 ^ k)
  by_cases hsize : s.params.vramBytes = 2 ^ k
  · rw [if_pos hsize.symm, hu] at happly
    exact ⟨s.fb, s.dirty, s.freeCtr, hexec.trans (congrArg _ happly), fun _ => ⟨rfl, rfl⟩, fun hne => absurd hsize hne⟩
  · rw [if_neg (Ne.symm hsize)] at happly
    have hbytes : u.params.vramBytes = 2 ^ k := by rw [hu]
    have hpages : pageCount u.params = 2 ^ k / 4096 := congrArg (· / 4096) hbytes
    have honePage : 2 ^ 12 ≤ 2 ^ k := Nat.pow_le_pow_right Nat.two_pos (Nat.le_trans (by decide) hk)
    obtain ⟨hwf, hlt, hrise, hpage⟩ : memoryOk u.freshVram :=
      freshVram_memoryOk (hbytes ▸ Nat.two_pow_pos k) (hpages ▸ Nat.div_pos honePage (by decide))
    refine ⟨u.freshVram.fb, u.freshVram.dirty, u.freshVram.freeCtr, hexec.trans (congrArg _ (happly.trans ?_)),
      fun heq => absurd heq hsize, fun _ => ⟨hwf, fun c hc => hbytes ▸ hlt c hc, hrise, fun q hq => hpages ▸ hpage q hq⟩⟩
    rw [hu]
    rfl

/-! ## Commands on the reset registers -/

/-- Zero rows move no coordinate (44 R284). -/
theorem restY_zero (c v : Half) : restY c v 0#12 = v := by simp [restY]

/-- ZERO-EXTENT with no rows leaves the registers (44 R284). -/
theorem zeroExtentRegs_noRows {e : Ex} {r : Regs} (hmin : r.minAxisPcnt = 0#12) : zeroExtentRegs e r = r := by
  unfold zeroExtentRegs
  rw [hmin]
  cases e.cls with
  | line => rfl
  | rect | blit | pat => simp only [restY_zero]

/-- With both counts zero a command word only clears what waits, and takes the snapshot of its class (44 R280 to R284). -/
theorem commitCmd_zeroCounts {s : State} (c : Half) (hmaj : s.regs.majAxisPcnt = 0#12)
    (hmin : s.regs.minAxisPcnt = 0#12) : ∃ e : Ex, s.commitCmd c = (s.cleared c).withEx e ∧ e.active = false := by
  cases hcls : classOf c with
  | none => exact ⟨(s.cleared c).ex, commitCmd_none hcls, rfl⟩
  | some cls =>
    obtain ⟨-, -, -, hactive, -⟩ := exAtStart_fields s cls c
    refine ⟨s.exAtStart cls c, ?_, hactive⟩
    have hmin' : (s.cleared c).regs.minAxisPcnt = 0#12 := hmin
    rw [commitCmd_some hcls, if_pos (extentOf_eq_zero.2 (.inl hmaj)), zeroExtentRegs_noRows hmin']
    rfl

/-- The rows of the command words. -/
def commandRows (lo : BitVec 13) (hi9 : BitVec 9) (l3 : BitVec 3) : List Instr :=
  [.cmdNop lo, .cmdLine lo, .cmdRect lo, .cmdRsv3 lo, .cmdRsv4 lo, .cmdRsv5 lo, .cmdBlit lo, .cmdPat lo,
    .cmdLineBresenham hi9 l3, .cmdLineRadial hi9 l3]

/-- A command row commits a command word (42 R210). -/
theorem commandRow_exec {lo : BitVec 13} {hi9 : BitVec 9} {l3 : BitVec 3} {i : Instr} (hi : i ∈ commandRows lo hi9 l3)
    (s : State) : ∃ c, exec i s = .next (s.commitCmd c) := by
  simp only [commandRows, List.mem_cons, List.not_mem_nil, or_false] at hi
  rcases hi with rfl | rfl | rfl | rfl | rfl | rfl | rfl | rfl | rfl | rfl
  all_goals exact ⟨_, rfl⟩

/-- Settles O56: both counts are zero at reset, so the command only clears what waits. -/
theorem resetRegistersDrawNothing : Obligations.ResetRegistersDrawNothing := by
  intro s lo hi9 l3 hreset i hi
  obtain ⟨c, hexec⟩ := commandRow_exec hi s
  have hmaj : s.regs.majAxisPcnt = 0#12 := by rw [hreset]; rfl
  have hmin : s.regs.minAxisPcnt = 0#12 := by rw [hreset]; rfl
  obtain ⟨e, hcommit, hactive⟩ := commitCmd_zeroCounts c hmaj hmin
  have hx : s.regs.curX = 0#16 := by rw [hreset]; rfl
  have hy : s.regs.curY = 0#16 := by rw [hreset]; rfl
  exact ⟨_, hexec.trans (congrArg _ hcommit), rfl, rfl, hactive, hx, hy⟩

end Sys2Proof.Machine
